-- ==== Sys2Proof/Word.lean ====
section
/-! DEFINITION. The word types of the block (00_scope.md rules R7, R9): a byte, a command word, a data word,
and the widths of its registers. -/

namespace Sys2Proof

/-- A byte: a byte lane of a bus (R10), the immediate of a command word (R61), a byte of a varint (R80). -/
abbrev Byte := BitVec 8

/-- A command word, `cmd_word` (20_memory.md R41, 30_encoding.md R61). -/
abbrev CmdWord := BitVec 16

/-- A data word: `cmd_data` or `rsp_data`, `DATA_W` = 64 bits (R7, R41). -/
abbrev Data := BitVec 64

/-- A varint accumulator: 63 bits, nine groups of 7 (10_state.md R23, R26). -/
abbrev VarintAcc := BitVec 63

/-- A 4-bit field: a byte count register, the sticky code, `rsp_len` (R24, R27, R29, R66). -/
abbrev Nibble := BitVec 4

end Sys2Proof
end

