-- ==== Sys2Proof/Syntax.lean ====
section
/-! DEFINITION. Commands as the host sends them and as the block reads them: one constructor of `Instr` for each
row of spec/opcode_table.json (30_encoding.md R64). -/

namespace Sys2Proof

/-- One transaction of the command channel: 80 bits, sampled together (30_encoding.md R60). -/
structure Command where
  word : CmdWord
  data : Data
  deriving DecidableEq, Repr

/-- The 17 commands (30_encoding.md R64) with the operands each takes. Bits a command does not use are not part of
it (R63). -/
inductive Instr where
  /-- NOP (43_control.md R150). -/
  | nop
  /-- CRC32.SEED: `seed = cmd_data[31:0]` (41_crc32.md R113). -/
  | crc32Seed (seed : BitVec 32)
  /-- CRC32.UPD: byte count `k`, bytes in lanes 0 to `k-1` of `data` (R114). -/
  | crc32Upd (k : Byte) (data : Data)
  /-- CRC32.GET (R115). -/
  | crc32Get
  /-- CRC64.SEED: `seed = cmd_data[63:0]` (42_crc64.md R133). -/
  | crc64Seed (seed : BitVec 64)
  /-- CRC64.UPD: byte count `k`, bytes in lanes 0 to `k-1` of `data` (R134). -/
  | crc64Upd (k : Byte) (data : Data)
  /-- CRC64.GET (R135). -/
  | crc64Get
  /-- VENC: the value to encode, `cmd_data[63:0]` (40_varint.md R82). -/
  | venc (value : Data)
  /-- VDEC.CLR (R86). -/
  | vdecClr
  /-- VDEC.PUSH: the byte `b = imm` (R87). -/
  | vdecPush (b : Byte)
  /-- VDEC.FIN (R88). -/
  | vdecFin
  /-- VRD.START (R93). -/
  | vrdStart
  /-- VRD.BYTE: the byte `b = imm` (R94). -/
  | vrdByte (b : Byte)
  /-- VRD.EOF (R95). -/
  | vrdEof
  /-- VRD.GET (R96). -/
  | vrdGet
  /-- STAT.GET (43_control.md R151). -/
  | statGet
  /-- STAT.CLR (R152). -/
  | statClr
  deriving DecidableEq, Repr

end Sys2Proof
end

