-- ==== Sys2Proof/WellFormed.lean ====
section
/-! DEFINITION. The well-formed instructions: those whose operands the encoding admits (30_encoding.md R62, R64,
R65). The one bound is on the byte count of the two updates. -/

namespace Sys2Proof

/-- A byte count is legal from 0 to 8, `CRC_UPD_MAX` (00_scope.md R7, 30_encoding.md R62). -/
def byteCountLegal (k : Byte) : Bool := k.toNat ≤ 8

/-- Whether some legal command word stands for the instruction (R65). -/
def Instr.wellFormed : Instr → Bool
  | .nop => true
  | .crc32Seed _ => true
  | .crc32Upd k _ => byteCountLegal k
  | .crc32Get => true
  | .crc64Seed _ => true
  | .crc64Upd k _ => byteCountLegal k
  | .crc64Get => true
  | .venc _ => true
  | .vdecClr => true
  | .vdecPush _ => true
  | .vdecFin => true
  | .vrdStart => true
  | .vrdByte _ => true
  | .vrdEof => true
  | .vrdGet => true
  | .statGet => true
  | .statClr => true

/-- `wellFormed` as a proposition. -/
abbrev Instr.WellFormed (i : Instr) : Prop := i.wellFormed = true

end Sys2Proof
end

