-- ==== Sys2Proof/Decode.lean ====
section
/-! DEFINITION. The decoder, total on every command word and rejecting by name (30_encoding.md R70), and the encoder
(R61, R64, R68). -/

namespace Sys2Proof

/-- Why a command word is illegal: the three causes of 30_encoding.md R65. -/
inductive DecodeError where
  /-- `op` is not one of the 17 opcodes. -/
  | reservedOpcode
  /-- CRC32.UPD or CRC64.UPD with `imm > 8`. -/
  | byteCountAbove8
  /-- A command whose immediate must be 0, with a nonzero immediate. -/
  | immediateNotZero
  deriving DecidableEq, Repr

/-- The opcode field, `cmd_word[7:0]` (R61). -/
def opField (w : CmdWord) : Byte := w.extractLsb' 0 8

/-- The immediate field, `cmd_word[15:8]` (R61). -/
def immField (w : CmdWord) : Byte := w.extractLsb' 8 8

/-- A command whose immediate must be 0 (R65). -/
def withoutImm (imm : Byte) (i : Instr) : Except DecodeError Instr :=
  if imm = 0 then .ok i else .error .immediateNotZero

/-- A command whose immediate is a byte count (R65). -/
def withByteCount (imm : Byte) (i : Instr) : Except DecodeError Instr :=
  if byteCountLegal imm then .ok i else .error .byteCountAbove8

/-- The decode function of 30_encoding.md R70 on the two fields of a command word, with the data operand each command
takes (R63, R64). -/
def decodeFields (op imm : Byte) (d : Data) : Except DecodeError Instr :=
  if op = 0x00#8 then withoutImm imm .nop
  else if op = 0x01#8 then withoutImm imm (.crc32Seed (d.setWidth 32))
  else if op = 0x02#8 then withByteCount imm (.crc32Upd imm d)
  else if op = 0x03#8 then withoutImm imm .crc32Get
  else if op = 0x04#8 then withoutImm imm (.crc64Seed d)
  else if op = 0x05#8 then withByteCount imm (.crc64Upd imm d)
  else if op = 0x06#8 then withoutImm imm .crc64Get
  else if op = 0x10#8 then withoutImm imm (.venc d)
  else if op = 0x20#8 then withoutImm imm .vdecClr
  else if op = 0x21#8 then .ok (.vdecPush imm)
  else if op = 0x22#8 then withoutImm imm .vdecFin
  else if op = 0x30#8 then withoutImm imm .vrdStart
  else if op = 0x31#8 then .ok (.vrdByte imm)
  else if op = 0x32#8 then withoutImm imm .vrdEof
  else if op = 0x33#8 then withoutImm imm .vrdGet
  else if op = 0x40#8 then withoutImm imm .statGet
  else if op = 0x41#8 then withoutImm imm .statClr
  else .error .reservedOpcode

/-- The decode function of 30_encoding.md R70. -/
def decode (w : CmdWord) (d : Data) : Except DecodeError Instr := decodeFields (opField w) (immField w) d

/-- A command word from its two fields: `imm` in bits 15:8, `op` in bits 7:0 (R61). -/
def cmdWord (imm op : Byte) : CmdWord := imm ++ op

/-- The assembled form of an instruction (30_encoding.md R64, R68): zero in every field it does not take. -/
def encode : Instr → Command
  | .nop => ⟨cmdWord 0 0x00, 0⟩
  | .crc32Seed seed => ⟨cmdWord 0 0x01, seed.setWidth 64⟩
  | .crc32Upd k data => ⟨cmdWord k 0x02, data⟩
  | .crc32Get => ⟨cmdWord 0 0x03, 0⟩
  | .crc64Seed seed => ⟨cmdWord 0 0x04, seed⟩
  | .crc64Upd k data => ⟨cmdWord k 0x05, data⟩
  | .crc64Get => ⟨cmdWord 0 0x06, 0⟩
  | .venc value => ⟨cmdWord 0 0x10, value⟩
  | .vdecClr => ⟨cmdWord 0 0x20, 0⟩
  | .vdecPush b => ⟨cmdWord b 0x21, 0⟩
  | .vdecFin => ⟨cmdWord 0 0x22, 0⟩
  | .vrdStart => ⟨cmdWord 0 0x30, 0⟩
  | .vrdByte b => ⟨cmdWord b 0x31, 0⟩
  | .vrdEof => ⟨cmdWord 0 0x32, 0⟩
  | .vrdGet => ⟨cmdWord 0 0x33, 0⟩
  | .statGet => ⟨cmdWord 0 0x40, 0⟩
  | .statClr => ⟨cmdWord 0 0x41, 0⟩

/-- The 80 bits of a command from a number: `cmd_word` in bits 15:0 and `cmd_data` in bits 79:16, with every bit
from `nbits` on zero (DESIGN CHOICE notes/assumptions/16.md: the spec numbers the two words apart). -/
def commandOfBits (nbits w : Nat) : Command :=
  let v := w % 2 ^ nbits
  ⟨BitVec.ofNat 16 v, BitVec.ofNat 64 (v / 2 ^ 16)⟩

/-- The instruction the decoder reads from a command numbered as spec/opcode_table.json numbers it. -/
def decodeTableWord (nbits w : Nat) : Option Instr :=
  let c := commandOfBits nbits w
  match decode c.word c.data with
  | .ok i => some i
  | .error _ => none

end Sys2Proof
end

