-- ==== Sys2Proof/Machine/State.lean ====
section
/-! DEFINITION. The state of the block and of its two channels, as plain data: the registers of 10_state.md R21 to
R29, the command and response channels of 20_memory.md R41 to R44, and what the host drives (R48, R51). -/

namespace Sys2Proof.Machine

/-- The five errors of 60_exceptions.md R160. -/
inductive ErrorKind where
  | varintTooLong
  | varintTooLarge
  | truncated
  | illegalCommand
  | sequenceError
  deriving DecidableEq, Repr

/-- The status of a response (60_exceptions.md R160). The reserved codes are never produced, so no value here
stands for one (93_implementation_defined.md K9). -/
inductive Status where
  | ok
  | more
  | error (e : ErrorKind)
  deriving DecidableEq, Repr

/-- The four fields of a response (30_encoding.md R66). A field a rule does not name is zero (R67). -/
structure Response where
  status : Status
  data : Data := 0
  ext : Byte := 0
  len : Nibble := 0
  deriving DecidableEq, Repr

/-- The values of `VRD_STATE` (10_state.md R28). -/
inductive VrdState where
  | idle
  | active
  | done
  | error
  deriving DecidableEq, Repr

/-- What the host drives at one rising edge of `clk`: the input ports of 20_memory.md R41. -/
structure PortIn where
  rst : Bool
  cmdValid : Bool
  cmd : Command
  rspReady : Bool
  deriving DecidableEq, Repr

/-- Where the block stands between a command and its response (20_memory.md R43, R44; 70_reset_and_hazards.md
R183). -/
inductive Channel where
  /-- No command since reset: this many edges have passed, and the tables may still be in the building. -/
  | starting (waited : Nat)
  /-- No command in flight; `cmd_ready` is 1. -/
  | ready
  /-- A command has been accepted and its response not yet taken: the edges since its acceptance, and the response. -/
  | inFlight (waited : Nat) (rsp : Response)
  deriving DecidableEq, Repr

/-- The architectural state: the nine registers, and nothing of the interface (10_state.md R20, R32). -/
structure Registers where
  /-- `CRC32_ACC` (R21): the finished CRC-32 so far. -/
  crc32Acc : BitVec 32
  /-- `CRC64_ACC` (R22): the finished CRC-64 so far. -/
  crc64Acc : BitVec 64
  /-- `VDEC_ACC` (R23): the value the buffer decoder has accumulated. -/
  vdecAcc : VarintAcc
  /-- `VDEC_CNT` (R24): the bytes pushed, saturated at 10. -/
  vdecCnt : Nibble
  /-- `VDEC_STOP` (R25): a zero byte after the first has been seen. -/
  vdecStop : Bool
  /-- `VRD_ACC` (R26): the value the stream reader has accumulated. -/
  vrdAcc : VarintAcc
  /-- `VRD_CNT` (R27): the bytes consumed for the current varint. -/
  vrdCnt : Nibble
  /-- `VRD_STATE` (R28). -/
  vrdState : VrdState
  /-- `STICKY` (R29): the code of the first error since the last clear, or 0. -/
  sticky : Nibble
  deriving DecidableEq, Repr

/-- What one command does at the transaction level: the step reads the registers, writes the registers and yields the
response (20_memory.md R44). The response is an output of the step, not state (10_state.md R32). -/
structure Effect where
  regs : Registers
  rsp : Response
  deriving DecidableEq, Repr

/-- The clocked machine, an edge at a time: the architectural state, and beside it what the interface holds from one edge
to the next. No meaning reads the interface part: a meaning is a function of `Registers` alone. `channel` and `held` are
where the handshake stands; `inputs` and `responses` are what crosses the ports; `draws` counts the free values used
(notes/assumptions/2.md). -/
structure State extends Registers where
  /-- The block's place in the handshake (20_memory.md R43, R44). -/
  channel : Channel
  /-- The command the host presented at the last edge and the block did not accept: the host must hold it
  (R42). -/
  held : Option Command
  /-- What the host drives at the coming edges, the next one first (DESIGN CHOICE notes/assumptions/1.md). -/
  inputs : List PortIn
  /-- The responses the host has taken, in order (70_reset_and_hazards.md R187; DESIGN CHOICE
  notes/assumptions/2.md). -/
  responses : List Response
  /-- The counter the free values of Config are applied to (DESIGN CHOICE notes/assumptions/4.md). -/
  draws : Nat
  deriving DecidableEq, Repr

/-- Why the machine stops. -/
inductive Fault where
  /-- Raised by `step`, by no instruction: the host changed or withdrew a command it must hold until it is accepted
  (20_memory.md R42, R51; 93_implementation_defined.md K16: such a host has no step). Safe: the hardware goes on, and the
  model claims nothing of it. -/
  | hostBrokeHandshake
  deriving DecidableEq, Repr

/-- Why an instruction has no meaning. -/
inductive Refusal where
  /-- Raised by an arm of `exec` whose instruction has no meaning yet; there is none in this model. Safe. -/
  | notModelled (mnemonic : String)
  deriving DecidableEq, Repr

/-- What one step answers. -/
abbrev Result := Host.Outcome State Fault Refusal

/-- The registers right after reset (70_reset_and_hazards.md R180). -/
def Registers.reset : Registers where
  crc32Acc := 0
  crc64Acc := 0
  vdecAcc := 0
  vdecCnt := 0
  vdecStop := false
  vrdAcc := 0
  vrdCnt := 0
  vrdState := .idle
  sticky := 0

/-- The machine right after reset: the registers of R180, no command in flight, no response presented, and nothing from the
host. -/
def State.reset : State where
  toRegisters := Registers.reset
  channel := .starting 0
  held := none
  inputs := []
  responses := []
  draws := 0

end Sys2Proof.Machine
end

