-- ==== Sys2Proof/Machine/Flags.lean ====
section
/-! DEFINITION. The block has no flags (40_varint.md, template). In their place: the status codes (60_exceptions.md R160),
the sticky error record (R162) and the status view (10_state.md R35). -/

namespace Sys2Proof.Machine

/-- The code of an error (60_exceptions.md R160). -/
def ErrorKind.code : ErrorKind → Nibble
  | .varintTooLong => 0x8
  | .varintTooLarge => 0x9
  | .truncated => 0xA
  | .illegalCommand => 0xB
  | .sequenceError => 0xC

/-- The code of a status, the value of `rsp_status` (R160). -/
def Status.code : Status → Nibble
  | .ok => 0x0
  | .more => 0x1
  | .error e => e.code

/-- The code of a reader state (10_state.md R28). -/
def VrdState.code : VrdState → BitVec 2
  | .idle => 0
  | .active => 1
  | .done => 2
  | .error => 3

/-- The sticky update: the first error since the last clear stays (60_exceptions.md R162). -/
def stickyUpdate (sticky : Nibble) (e : ErrorKind) : Nibble :=
  if sticky = 0 then e.code else sticky

/-- The status view (10_state.md R35, 43_control.md R151): from the top, 49 reserved zero bits, `VDEC_STOP`, `VDEC_CNT`,
`VRD_CNT`, `VRD_STATE`, `STICKY`. -/
def statusView (g : Registers) : Data :=
  (0 : BitVec 49) ++ BitVec.ofBool g.vdecStop ++ g.vdecCnt ++ g.vrdCnt ++ g.vrdState.code ++ g.sticky

end Sys2Proof.Machine
end

