-- ==== Sys2Proof/Machine/Operands.lean ====
section
/-! DEFINITION. The operand forms of the commands: byte lanes of a bus (00_scope.md R10), the 7-bit groups of a varint
byte (40_varint.md R80), and the byte counts. -/

namespace Sys2Proof.Machine

/-- Byte lane `j` of a bus value: `d[8j+7:8j]` (00_scope.md R10). -/
def lane (d : Data) (j : Nat) : Byte := d.extractLsb' (8 * j) 8

/-- The data bytes of an update of `k` bytes: lanes 0 to `k-1`, lane 0 first (20_memory.md R47). -/
def lanes (d : Data) (k : Nat) : List Byte := (List.range k).map (lane d)

/-- The number a byte sequence packs to: the sum of `b_j * 2^(8j)` (00_scope.md R10, R12). -/
def packNat : List Byte → Nat
  | [] => 0
  | b :: bs => b.toNat + 2 ^ 8 * packNat bs

/-- A byte sequence of at most 8 bytes on a bus: byte `j` in lane `j`, the unused lanes zero (R10). -/
def pack (bs : List Byte) : Data := BitVec.ofNat 64 (packNat bs)

/-- The continuation bit of a varint byte, bit 7 (40_varint.md R80). -/
def continuation (b : Byte) : Bool := b.getLsbD 7

/-- The group of a varint byte at position `i`: `zext_63(b & 0x7F) << 7i` (40_varint.md R87, R94). -/
def group (b : Byte) (i : Nat) : VarintAcc := (b &&& 0x7F).setWidth 63 <<< (7 * i)

/-- A byte count in its 4-bit register or response field. A count above 15 does not occur in a reachable state
(10_state.md R33; notes/assumptions/12.md). -/
def count (n : Nat) : Nibble := BitVec.ofNat 4 n

end Sys2Proof.Machine
end

