-- ==== Sys2Proof/Machine/Ops.lean ====
section
/-! DEFINITION. The named operations every meaning is made of: writing one register (`REG <- v`), responding, and
failing with an error (00_scope.md R11). The block has no memory and no traps (20_memory.md R40, 60_exceptions.md R168): an
error is `fail`, the one shared operation that takes the place of an exception entry, and nothing returns from it. -/

namespace Sys2Proof.Machine

/-- `CRC32_ACC <- v`. -/
def Registers.setCrc32Acc (g : Registers) (v : BitVec 32) : Registers := { g with crc32Acc := v }

/-- `CRC64_ACC <- v`. -/
def Registers.setCrc64Acc (g : Registers) (v : BitVec 64) : Registers := { g with crc64Acc := v }

/-- `VDEC_ACC <- v`. -/
def Registers.setVdecAcc (g : Registers) (v : VarintAcc) : Registers := { g with vdecAcc := v }

/-- `VDEC_CNT <- v`. -/
def Registers.setVdecCnt (g : Registers) (v : Nibble) : Registers := { g with vdecCnt := v }

/-- `VDEC_STOP <- v`. -/
def Registers.setVdecStop (g : Registers) (v : Bool) : Registers := { g with vdecStop := v }

/-- `VRD_ACC <- v`. -/
def Registers.setVrdAcc (g : Registers) (v : VarintAcc) : Registers := { g with vrdAcc := v }

/-- `VRD_CNT <- v`. -/
def Registers.setVrdCnt (g : Registers) (v : Nibble) : Registers := { g with vrdCnt := v }

/-- `VRD_STATE <- v`. -/
def Registers.setVrdState (g : Registers) (v : VrdState) : Registers := { g with vrdState := v }

/-- `STICKY <- v`. -/
def Registers.setSticky (g : Registers) (v : Nibble) : Registers := { g with sticky := v }

/-- `respond(...)` (00_scope.md R11): these registers and this response are what the command does. -/
def Registers.respond (g : Registers) (r : Response) : Effect := ⟨g, r⟩

/-- `fail(S)` (00_scope.md R11): the sticky update of 60_exceptions.md R162, and a response with the error status and
every other field zero (30_encoding.md R67). -/
def Registers.fail (g : Registers) (e : ErrorKind) : Effect :=
  (g.setSticky (stickyUpdate g.sticky e)).respond { status := .error e }

/-- The effect of an accepted command on the clocked machine: the registers take their new values, and the command is in
flight with its response, which the block presents after a latency of its own (20_memory.md R43, R44). -/
def State.commit (s : State) (e : Effect) : Result :=
  .next { s with toRegisters := e.regs, channel := .inFlight 0 e.rsp, draws := s.draws + 1 }

end Sys2Proof.Machine
end

