-- ==== Sys2Proof/Machine/Control.lean ====
section
/-! DEFINITION. The control commands NOP, STAT.GET and STAT.CLR (43_control.md), and the illegal command, which no
instruction stands for (60_exceptions.md R161): the effect of each on the registers, and its meaning. -/

namespace Sys2Proof.Machine

/-- NOP (43_control.md R150). -/
def effectNop (g : Registers) : Effect := g.respond { status := .ok }

/-- STAT.GET (43_control.md R151): the view of the registers as they stood before it. -/
def effectStatGet (g : Registers) : Effect := g.respond { status := .ok, data := statusView g }

/-- STAT.CLR (43_control.md R152). -/
def effectStatClr (g : Registers) : Effect := (g.setSticky 0).respond { status := .ok }

/-- A command word that decodes as illegal (60_exceptions.md R161). -/
def effectIllegal (g : Registers) : Effect := g.fail .illegalCommand

/-- The meaning of NOP. -/
def execNop (s : State) : Result := s.commit (effectNop s.toRegisters)

/-- The meaning of STAT.GET. -/
def execStatGet (s : State) : Result := s.commit (effectStatGet s.toRegisters)

/-- The meaning of STAT.CLR. -/
def execStatClr (s : State) : Result := s.commit (effectStatClr s.toRegisters)

/-- The meaning of an illegal command. -/
def execIllegal (s : State) : Result := s.commit (effectIllegal s.toRegisters)

end Sys2Proof.Machine
end

