-- ==== Sys2Proof/Machine/Crc.lean ====
section
/-! DEFINITION. The CRC function of both engines, at any width (41_crc32.md R110 to R112, 42_crc64.md R130 to R132; tables:
10_state.md R30, R31). The two engines differ only in width and polynomial. -/

namespace Sys2Proof.Machine

/-- The reflected CRC-32 polynomial (00_scope.md R7). -/
def poly32 : BitVec 32 := 0xEDB88320

/-- The reflected ECMA-182 polynomial (00_scope.md R7). -/
def poly64 : BitVec 64 := 0xC96C5795D7870F42

/-- One shift of the table procedure (10_state.md R30): shift right, and xor the polynomial where bit 0 was 1. -/
def crcShift {n : Nat} (poly r : BitVec n) : BitVec n :=
  if r.getLsbD 0 then (r >>> 1) ^^^ poly else r >>> 1

/-- `crcShift` repeated. -/
def crcShifts {n : Nat} (poly : BitVec n) : Nat → BitVec n → BitVec n
  | 0, r => r
  | k + 1, r => crcShifts poly k (crcShift poly r)

/-- Entry `i` of the constant lookup table of a polynomial: `T32` or `T64` (10_state.md R30, R31). -/
def crcTable {n : Nat} (poly : BitVec n) (i : Byte) : BitVec n := crcShifts poly 8 (i.setWidth n)

/-- The per-byte step, through the table (41_crc32.md R112, 42_crc64.md R132). The index is the low byte of
`c ^ zext(m)`. -/
def crcStep {n : Nat} (poly c : BitVec n) (m : Byte) : BitVec n :=
  crcTable poly ((c ^^^ m.setWidth n).setWidth 8) ^^^ (c >>> 8)

/-- The CRC of a byte sequence continued from a seed, which is a finished CRC (41_crc32.md R111, 42_crc64.md R131). -/
def crc {n : Nat} (poly seed : BitVec n) (bytes : List Byte) : BitVec n :=
  ~~~(bytes.foldl (crcStep poly) (~~~seed))

/-- The table `T32` (10_state.md R30). -/
def t32 (i : Byte) : BitVec 32 := crcTable poly32 i

/-- The table `T64` (10_state.md R31). -/
def t64 (i : Byte) : BitVec 64 := crcTable poly64 i

/-- `crc32(s, m)` (41_crc32.md R111). -/
def crc32 (seed : BitVec 32) (bytes : List Byte) : BitVec 32 := crc poly32 seed bytes

/-- `crc64(s, m)` (42_crc64.md R131). -/
def crc64 (seed : BitVec 64) (bytes : List Byte) : BitVec 64 := crc poly64 seed bytes

end Sys2Proof.Machine
end

