-- ==== Sys2Proof/Machine/CrcCommands.lean ====
section
/-! DEFINITION. The six CRC commands (41_crc32.md R113 to R115, 42_crc64.md R133 to R135): the effect of each on the
registers, and its meaning. -/

namespace Sys2Proof.Machine

/-- CRC32.SEED (41_crc32.md R113). -/
def effectCrc32Seed (seed : BitVec 32) (g : Registers) : Effect :=
  (g.setCrc32Acc seed).respond { status := .ok }

/-- CRC32.UPD (41_crc32.md R114): absorbs lanes 0 to `k-1`; a count above 8 is an illegal command. -/
def effectCrc32Upd (k : Byte) (data : Data) (g : Registers) : Effect :=
  if k.toNat ≤ 8 then (g.setCrc32Acc (crc32 g.crc32Acc (lanes data k.toNat))).respond { status := .ok }
  else g.fail .illegalCommand

/-- CRC32.GET (41_crc32.md R115). -/
def effectCrc32Get (g : Registers) : Effect := g.respond { status := .ok, data := g.crc32Acc.setWidth 64, len := 4 }

/-- CRC64.SEED (42_crc64.md R133). -/
def effectCrc64Seed (seed : BitVec 64) (g : Registers) : Effect :=
  (g.setCrc64Acc seed).respond { status := .ok }

/-- CRC64.UPD (42_crc64.md R134). -/
def effectCrc64Upd (k : Byte) (data : Data) (g : Registers) : Effect :=
  if k.toNat ≤ 8 then (g.setCrc64Acc (crc64 g.crc64Acc (lanes data k.toNat))).respond { status := .ok }
  else g.fail .illegalCommand

/-- CRC64.GET (42_crc64.md R135). -/
def effectCrc64Get (g : Registers) : Effect := g.respond { status := .ok, data := g.crc64Acc, len := 8 }

/-- The meaning of CRC32.SEED. -/
def execCrc32Seed (seed : BitVec 32) (s : State) : Result := s.commit (effectCrc32Seed seed s.toRegisters)

/-- The meaning of CRC32.UPD. -/
def execCrc32Upd (k : Byte) (data : Data) (s : State) : Result := s.commit (effectCrc32Upd k data s.toRegisters)

/-- The meaning of CRC32.GET. -/
def execCrc32Get (s : State) : Result := s.commit (effectCrc32Get s.toRegisters)

/-- The meaning of CRC64.SEED. -/
def execCrc64Seed (seed : BitVec 64) (s : State) : Result := s.commit (effectCrc64Seed seed s.toRegisters)

/-- The meaning of CRC64.UPD. -/
def execCrc64Upd (k : Byte) (data : Data) (s : State) : Result := s.commit (effectCrc64Upd k data s.toRegisters)

/-- The meaning of CRC64.GET. -/
def execCrc64Get (s : State) : Result := s.commit (effectCrc64Get s.toRegisters)

end Sys2Proof.Machine
end

