-- ==== Sys2Proof/Machine/Varint.lean ====
section
/-! DEFINITION. The varint codec: the encode function and VENC, the buffer decoder VDEC.*, and the stream reader VRD.*
(40_varint.md): the effect of each command on the registers, and its meaning. -/

namespace Sys2Proof.Machine

/-- The loop of `enc` (40_varint.md R81). Nine rounds are enough for every 64-bit value: what is left after nine shifts by 7 is
below 0x80. -/
def encLoop : Nat → Data → List Byte
  | 0, v => [v.setWidth 8]
  | rounds + 1, v =>
    if 0x80 ≤ v.toNat then ((v.setWidth 8 &&& 0x7F) ||| 0x80) :: encLoop rounds (v >>> 7)
    else [v.setWidth 8]

/-- The encode function `enc` (40_varint.md R81). The rule leaves it undefined above `2^63 - 1`; there this definition gives
the ten bytes of the same loop, which is the model's choice (DESIGN CHOICE, notes/assumptions/18.md) and reaches no state:
VENC refuses such a value first (R82). -/
def enc (v : Data) : List Byte := encLoop 9 v

/-- VENC (40_varint.md R82): a value above `2^63 - 1`, bit 63 set, fails; otherwise bytes 0 to 7 of the encoding are in
the lanes of the response data, and byte 8, where there is one, in its extension byte. It keeps nothing (10_state.md
R32). -/
def effectVenc (value : Data) (g : Registers) : Effect :=
  if 2 ^ 63 ≤ value.toNat then g.fail .varintTooLarge
  else
    let e := enc value
    g.respond
      { status := .ok
        data := pack (e.take 8)
        ext := e.getD 8 0
        len := count e.length }

/-- VDEC.CLR (40_varint.md R86). -/
def effectVdecClr (g : Registers) : Effect :=
  (((g.setVdecAcc 0).setVdecCnt 0).setVdecStop false).respond { status := .ok }

/-- The register writes of VDEC.PUSH (40_varint.md R87): count the byte; unless stopped, stop on a zero byte after the
first, or accumulate a byte at position 0 to 8. -/
def Registers.pushByte (g : Registers) (b : Byte) : Registers :=
  let i := g.vdecCnt.toNat
  let counted := g.setVdecCnt (count (min (i + 1) 10))
  if g.vdecStop then counted
  else if 1 ≤ i ∧ b = 0 then counted.setVdecStop true
  else if i ≤ 8 then counted.setVdecAcc (g.vdecAcc ||| group b i)
  else counted

/-- VDEC.PUSH (40_varint.md R87). -/
def effectVdecPush (b : Byte) (g : Registers) : Effect := (g.pushByte b).respond { status := .ok }

/-- VDEC.FIN (40_varint.md R88). -/
def effectVdecFin (g : Registers) : Effect :=
  if 9 < g.vdecCnt.toNat then g.fail .varintTooLong
  else g.respond { status := .ok, data := g.vdecAcc.setWidth 64, len := g.vdecCnt }

/-- VRD.START (40_varint.md R93). -/
def effectVrdStart (g : Registers) : Effect :=
  (((g.setVrdAcc 0).setVrdCnt 0).setVrdState .active).respond { status := .ok }

/-- VRD.BYTE (40_varint.md R94). -/
def effectVrdByte (b : Byte) (g : Registers) : Effect :=
  if g.vrdState = .active then
    let i := g.vrdCnt.toNat
    let acc := g.vrdAcc ||| group b i
    let consumed := (g.setVrdAcc acc).setVrdCnt (count (i + 1))
    if continuation b = false then
      (consumed.setVrdState .done).respond { status := .ok, data := acc.setWidth 64, len := count (i + 1) }
    else if i + 1 = 9 then (consumed.setVrdState .error).fail .varintTooLong
    else consumed.respond { status := .more, len := count (i + 1) }
  else g.fail .sequenceError

/-- VRD.EOF (40_varint.md R95). -/
def effectVrdEof (g : Registers) : Effect :=
  if g.vrdState = .active then (g.setVrdState .error).fail .truncated else g.fail .sequenceError

/-- VRD.GET (40_varint.md R96). -/
def effectVrdGet (g : Registers) : Effect :=
  if g.vrdState = .done then g.respond { status := .ok, data := g.vrdAcc.setWidth 64, len := g.vrdCnt }
  else g.fail .sequenceError

/-- The meaning of VENC. -/
def execVenc (value : Data) (s : State) : Result := s.commit (effectVenc value s.toRegisters)

/-- The meaning of VDEC.CLR. -/
def execVdecClr (s : State) : Result := s.commit (effectVdecClr s.toRegisters)

/-- The meaning of VDEC.PUSH. -/
def execVdecPush (b : Byte) (s : State) : Result := s.commit (effectVdecPush b s.toRegisters)

/-- The meaning of VDEC.FIN. -/
def execVdecFin (s : State) : Result := s.commit (effectVdecFin s.toRegisters)

/-- The meaning of VRD.START. -/
def execVrdStart (s : State) : Result := s.commit (effectVrdStart s.toRegisters)

/-- The meaning of VRD.BYTE. -/
def execVrdByte (b : Byte) (s : State) : Result := s.commit (effectVrdByte b s.toRegisters)

/-- The meaning of VRD.EOF. -/
def execVrdEof (s : State) : Result := s.commit (effectVrdEof s.toRegisters)

/-- The meaning of VRD.GET. -/
def execVrdGet (s : State) : Result := s.commit (effectVrdGet s.toRegisters)

end Sys2Proof.Machine
end

