-- ==== Sys2Proof/Machine/Dispatch.lean ====
section
/-! DEFINITION. The meaning of each instruction: one arm per constructor of Instr. -/

namespace Sys2Proof.Machine

def exec (i : Instr) (s : State) : Host.Outcome State Fault Refusal :=
  match i with
  | .nop => Sys2Proof.Machine.execNop s
  | .crc32Seed seed => Sys2Proof.Machine.execCrc32Seed seed s
  | .crc32Upd k data => Sys2Proof.Machine.execCrc32Upd k data s
  | .crc32Get => Sys2Proof.Machine.execCrc32Get s
  | .crc64Seed seed => Sys2Proof.Machine.execCrc64Seed seed s
  | .crc64Upd k data => Sys2Proof.Machine.execCrc64Upd k data s
  | .crc64Get => Sys2Proof.Machine.execCrc64Get s
  | .venc value => Sys2Proof.Machine.execVenc value s
  | .vdecClr => Sys2Proof.Machine.execVdecClr s
  | .vdecPush b => Sys2Proof.Machine.execVdecPush b s
  | .vdecFin => Sys2Proof.Machine.execVdecFin s
  | .vrdStart => Sys2Proof.Machine.execVrdStart s
  | .vrdByte b => Sys2Proof.Machine.execVrdByte b s
  | .vrdEof => Sys2Proof.Machine.execVrdEof s
  | .vrdGet => Sys2Proof.Machine.execVrdGet s
  | .statGet => Sys2Proof.Machine.execStatGet s
  | .statClr => Sys2Proof.Machine.execStatClr s

end Sys2Proof.Machine
end

