-- ==== Sys2Proof/Machine/Accept.lean ====
section
/-! DEFINITION. Running one command: decode before anything else, then execute (60_exceptions.md R161, R165); at the
transaction level, a function of the command and the registers alone, and as the effect of an accepted command on the
clocked machine. -/

namespace Sys2Proof.Machine

/-- What an instruction does at the transaction level: its operands and the registers are all it sees, the registers and
the response all it gives (10_state.md R32, 20_memory.md R44). -/
def effect (i : Instr) (g : Registers) : Effect :=
  match i with
  | .nop => effectNop g
  | .crc32Seed seed => effectCrc32Seed seed g
  | .crc32Upd k data => effectCrc32Upd k data g
  | .crc32Get => effectCrc32Get g
  | .crc64Seed seed => effectCrc64Seed seed g
  | .crc64Upd k data => effectCrc64Upd k data g
  | .crc64Get => effectCrc64Get g
  | .venc value => effectVenc value g
  | .vdecClr => effectVdecClr g
  | .vdecPush b => effectVdecPush b g
  | .vdecFin => effectVdecFin g
  | .vrdStart => effectVrdStart g
  | .vrdByte b => effectVrdByte b g
  | .vrdEof => effectVrdEof g
  | .vrdGet => effectVrdGet g
  | .statGet => effectStatGet g
  | .statClr => effectStatClr g

/-- The transaction-level step: the command is its parameter, the registers its state, the response its output
(10_state.md R32, 20_memory.md R44). -/
def transaction (c : Command) (g : Registers) : Effect :=
  match decode c.word c.data with
  | .ok i => effect i g
  | .error _ => effectIllegal g

/-- The effect of an accepted command on the clocked machine: that of its instruction, or the IllegalCommand failure. -/
def runCommand (c : Command) (s : State) : Result :=
  match decode c.word c.data with
  | .ok i => exec i s
  | .error _ => execIllegal s

end Sys2Proof.Machine
end

