-- ==== Sys2Proof/Config.lean ====
section
/-! DEFINITION. What the spec leaves to the implementation: two free values. They are opaque constants without a
body, so no proof can use a value of either; a statement holds whatever they are. Each is applied to the
counter `draws` of State, which every accepted command and every reset edge advance, so each use is a fresh
value (notes/assumptions/4.md, 5.md). -/

namespace Sys2Proof

/-- `LATENCY` (00_scope.md R8; 92_eei_decisions.md D31; 93_implementation_defined.md K14): the cycles from
accepting a command to presenting its response. It is at least 1 and free for each command: a value 0 here acts
as 1 (`State.rspValid`; DESIGN CHOICE notes/assumptions/11.md). -/
opaque Config.latency : Nat → Nat

/-- How many edges after reset `cmd_ready` stays 0 while an implementation builds its lookup tables
(70_reset_and_hazards.md R183). It may be 0. -/
opaque Config.tableBuild : Nat → Nat

end Sys2Proof
end

