-- ==== Sys2Proof/Machine/Ports.lean ====
section
/-! DEFINITION. The ports and what one rising edge of `clk` does at them: the handshake of 20_memory.md R41 to R44, reset
(70_reset_and_hazards.md R180, R181) and the wait for the response (R186). -/

namespace Sys2Proof.Machine

/-- What the host drives at the next edge. Where its list has ended it drives no reset, takes no response, and presents
only a command it must still hold (DESIGN CHOICE notes/assumptions/1.md). -/
def State.drives (s : State) : PortIn :=
  match s.inputs, s.held with
  | p :: _, _ => p
  | [], some c => ⟨false, true, c, false⟩
  | [], none => ⟨false, false, ⟨0, 0⟩, false⟩

/-- `cmd_ready` with `rst = 0`: no command is in flight (R44) and the tables are built (R183; DEDUCED
notes/assumptions/5.md). -/
def State.cmdReady (s : State) : Bool :=
  match s.channel with
  | .starting waited => decide (Config.tableBuild s.draws ≤ waited)
  | .ready => true
  | .inFlight _ _ => false

/-- `rsp_valid` with `rst = 0`: a response is in flight and its latency, at least 1, is over (R43, R8; DEDUCED
notes/assumptions/7.md). -/
def State.rspValid (s : State) : Bool :=
  match s.channel with
  | .starting _ => false
  | .ready => false
  | .inFlight waited _ => decide (Config.latency s.draws ≤ waited + 1)

/-- The response of the command in flight. -/
def State.flight (s : State) : Option Response :=
  match s.channel with
  | .starting _ => none
  | .ready => none
  | .inFlight _ r => some r

/-- The output ports (R41). The four response fields have a value only while `rsp_valid = 1`
(notes/assumptions/10.md). -/
structure PortOut where
  cmdReady : Bool
  rspValid : Bool
  rsp : Option Response
  deriving DecidableEq, Repr

/-- The outputs at an edge, given `rst`: while it is 1, `cmd_ready` and `rsp_valid` are 0 (R180). -/
def State.ports (s : State) (rst : Bool) : PortOut where
  cmdReady := !rst && s.cmdReady
  rspValid := !rst && s.rspValid
  rsp := if rst then none else if s.rspValid then s.flight else none

/-- The command is accepted at this edge (R42). -/
def State.accepts (s : State) (p : PortIn) : Bool := !p.rst && s.cmdReady && p.cmdValid

/-- The response is taken at this edge (R43). -/
def State.takes (s : State) (p : PortIn) : Bool := !p.rst && s.rspValid && p.rspReady

/-- The host does not hold the command it must hold (R42, R51; 93_implementation_defined.md K16; DEDUCED
notes/assumptions/8.md). -/
def State.breaksHold (s : State) (p : PortIn) : Bool :=
  match s.held with
  | none => false
  | some c => !(p.cmdValid && decide (p.cmd = c))

/-- The command the host presents at this edge. -/
def PortIn.offered (p : PortIn) : Option Command := if p.cmdValid then some p.cmd else none

/-- The edge is over: its input is used, and `held` is the command the host must hold from now on (R42). -/
def State.consume (s : State) (held : Option Command) : State :=
  { s with inputs := s.inputs.tail, held := held }

/-- One more edge has passed. -/
def Channel.wait : Channel → Channel
  | .starting waited => .starting (waited + 1)
  | .ready => .ready
  | .inFlight waited r => .inFlight (waited + 1) r

/-- An edge with `rst = 1` (R180, R181): every register takes its reset value, and a command in flight is cut short
without a response. What the host has taken and will drive is its own. A command presented now is not accepted and must
be held (R42, R180; DEDUCED notes/assumptions/9.md). -/
def State.resetEdge (s : State) (p : PortIn) : State :=
  { State.reset with
    held := p.offered
    inputs := s.inputs.tail
    responses := s.responses
    draws := s.draws + 1 }

/-- An edge at which the host takes the response (R43): it is the next of the host's responses, and from the next edge
on the block is ready (R44; DEDUCED notes/assumptions/6.md). -/
def State.takeEdge (s : State) (p : PortIn) : State :=
  { s.consume p.offered with
    channel := .ready
    responses := s.responses ++ s.flight.toList }

/-- An edge at which nothing is accepted or taken. -/
def State.waitEdge (s : State) (p : PortIn) : State :=
  { s.consume p.offered with channel := s.channel.wait }

end Sys2Proof.Machine
end

