-- ==== Sys2Proof/Machine/Step.lean ====
section
/-! DEFINITION. One step of the machine: one rising edge of `clk` (20_memory.md R41 to R44, 70_reset_and_hazards.md R180). -/

namespace Sys2Proof.Machine

/-- One rising edge of `clk`: reset, or the acceptance of a command with its whole effect (R44), or the taking of a
response, or a wait. -/
def step (s : State) : Host.Outcome State Fault Refusal :=
  let p := s.drives
  if p.rst then .next (s.resetEdge p)
  else if s.breaksHold p then .fault .hostBrokeHandshake
  else if s.accepts p then runCommand p.cmd (s.consume none)
  else if s.takes p then .next (s.takeEdge p)
  else .next (s.waitEdge p)

/-- `s` with the command of the given bits presented at the next edge, and the block ready to accept it
(notes/assumptions/1.md, 16.md). -/
def State.withFetchWord (s : State) (nbits w : Nat) : State :=
  { s with
    channel := .ready
    held := none
    inputs := ⟨false, true, commandOfBits nbits w, false⟩ :: s.inputs }

end Sys2Proof.Machine
end

