-- ==== Sys2Proof/Machine/Assembler.lean ====
section
/-! DEFINITION. The assembler of 30_encoding.md: the pseudo-instructions and their expansions (R69), the text syntax and the
assembled form (R68). It is the host's tool; the block does not depend on it (92_eei_decisions.md D30). What the text of R68
leaves open about spaces is in notes/assumptions/15.md. -/

namespace Sys2Proof.Machine

/-- A byte list cut into chunks of 8 from the front, the last of 1 to 8 bytes, none for an empty list; `rounds` bounds
the number of chunks. -/
def chunksLoop : Nat → List Byte → List (List Byte)
  | 0, _ => []
  | _ + 1, [] => []
  | rounds + 1, b :: bs => (b :: bs).take 8 :: chunksLoop rounds ((b :: bs).drop 8)

/-- The chunks of 8 of a byte list (R69). -/
def chunksOf8 (bs : List Byte) : List (List Byte) := chunksLoop bs.length bs

/-- `crc32.init` (R69). -/
def crc32Init : List Instr := [.crc32Seed 0]

/-- `crc64.init` (R69). -/
def crc64Init : List Instr := [.crc64Seed 0]

/-- `crc32.bytes` (R69). -/
def crc32Bytes (bs : List Byte) : List Instr :=
  (chunksOf8 bs).map fun c => .crc32Upd (BitVec.ofNat 8 c.length) (pack c)

/-- `crc64.bytes` (R69). -/
def crc64Bytes (bs : List Byte) : List Instr :=
  (chunksOf8 bs).map fun c => .crc64Upd (BitVec.ofNat 8 c.length) (pack c)

/-- `vdec.buf` (R69). -/
def vdecBuf (bs : List Byte) : List Instr := .vdecClr :: (bs.map .vdecPush ++ [.vdecFin])

/-- `vrd.bytes` (R69). -/
def vrdBytes (bs : List Byte) : List Instr := .vrdStart :: bs.map .vrdByte

/-- The operands a mnemonic takes (R68): none, `<d>`, `<k>, <d>` or `<b>`. -/
inductive OperandForm where
  | plain
  | data
  | countData
  | byte
  deriving DecidableEq, Repr

/-- The 17 mnemonics with their operands and opcodes (R64, R68). -/
def mnemonicTable : List (String × OperandForm × Byte) :=
  [("nop", .plain, 0x00), ("crc32.seed", .data, 0x01), ("crc32.upd", .countData, 0x02), ("crc32.get", .plain, 0x03),
   ("crc64.seed", .data, 0x04), ("crc64.upd", .countData, 0x05), ("crc64.get", .plain, 0x06), ("venc", .data, 0x10),
   ("vdec.clr", .plain, 0x20), ("vdec.push", .byte, 0x21), ("vdec.fin", .plain, 0x22), ("vrd.start", .plain, 0x30),
   ("vrd.byte", .byte, 0x31), ("vrd.eof", .plain, 0x32), ("vrd.get", .plain, 0x33), ("stat.get", .plain, 0x40),
   ("stat.clr", .plain, 0x41)]

/-- A space or a tab. -/
def isBlank (c : Char) : Bool := c = ' ' || c = '\t'

/-- Without the blanks at both ends. -/
def trim (cs : List Char) : List Char := ((cs.dropWhile isBlank).reverse.dropWhile isBlank).reverse

/-- An ASCII capital as its small letter: mnemonics are case-insensitive (R68). -/
def lower (c : Char) : Char := if 65 ≤ c.toNat && c.toNat ≤ 90 then Char.ofNat (c.toNat + 32) else c

/-- The value of a digit. -/
def digitValue (c : Char) : Option Nat :=
  let n := c.toNat
  if 48 ≤ n && n ≤ 57 then some (n - 48)
  else if 97 ≤ n && n ≤ 102 then some (n - 87)
  else if 65 ≤ n && n ≤ 70 then some (n - 55)
  else none

/-- The value of digits in a base, most significant first, continued from `acc`. -/
def digitsFrom (base : Nat) : Nat → List Char → Option Nat
  | acc, [] => some acc
  | acc, c :: cs =>
    match digitValue c with
    | some v => if v < base then digitsFrom base (acc * base + v) cs else none
    | none => none

/-- A nonempty run of digits. -/
def digits (base : Nat) (cs : List Char) : Option Nat :=
  if cs.isEmpty then none else digitsFrom base 0 cs

/-- A number, decimal or `0x` hexadecimal (R68). -/
def number (cs : List Char) : Option Nat :=
  match cs with
  | '0' :: 'x' :: hex => digits 16 hex
  | _ => digits 10 cs

/-- A number up to a bound: the assembler refuses an operand out of range (R68). -/
def numberUpTo (bound : Nat) (cs : List Char) : Option Nat :=
  match number cs with
  | some n => if n ≤ bound then some n else none
  | none => none

/-- The pieces between commas. -/
def splitCommas : List Char → List (List Char)
  | [] => [[]]
  | c :: cs =>
    if c = ',' then [] :: splitCommas cs
    else
      match splitCommas cs with
      | piece :: pieces => (c :: piece) :: pieces
      | [] => [[c]]

/-- The operands of a line. -/
def operands (rest : List Char) : List (List Char) :=
  if rest.isEmpty then [] else (splitCommas rest).map trim

/-- The ASCII bytes of a quoted string after its opening quote, with the escape for the byte 0x0A (R69). -/
def quotedBytes : List Char → Option (List Byte)
  | [] => none
  | '"' :: rest => if rest.isEmpty then some [] else none
  | '\\' :: 'n' :: rest => (quotedBytes rest).map (0x0A :: ·)
  | c :: rest =>
    if c.toNat < 128 && c ≠ '\\' then (quotedBytes rest).map (BitVec.ofNat 8 c.toNat :: ·) else none

/-- A byte list: byte numbers, or a quoted string (R69). -/
def byteList (rest : List Char) : Option (List Byte) :=
  match rest with
  | '"' :: quoted => quotedBytes quoted
  | _ => (operands rest).mapM fun o => (numberUpTo 255 o).map (BitVec.ofNat 8)

/-- The command of a mnemonic: `<k>` or `<b>` in `imm`, `<d>` whole in `cmd_data`, zero for what it does not take
(R68). -/
def assembleOperands (form : OperandForm) (op : Byte) (ops : List (List Char)) : Option Command :=
  match form, ops with
  | .plain, [] => some ⟨cmdWord 0 op, 0⟩
  | .data, [d] => (numberUpTo (2 ^ 64 - 1) d).map fun n => ⟨cmdWord 0 op, BitVec.ofNat 64 n⟩
  | .countData, [k, d] =>
    match numberUpTo 8 k, numberUpTo (2 ^ 64 - 1) d with
    | some count, some n => some ⟨cmdWord (BitVec.ofNat 8 count) op, BitVec.ofNat 64 n⟩
    | _, _ => none
  | .byte, [b] => (numberUpTo 255 b).map fun n => ⟨cmdWord (BitVec.ofNat 8 n) op, 0⟩
  | _, _ => none

/-- The raw form `WWWW:DDDDDDDDDDDDDDDD` (R68). -/
def assembleRaw (cs : List Char) : Option Command :=
  match cs.splitAt 4 with
  | (w, ':' :: d) =>
    if w.length = 4 && d.length = 16 then
      match digits 16 w, digits 16 d with
      | some word, some data => some ⟨BitVec.ofNat 16 word, BitVec.ofNat 64 data⟩
      | _, _ => none
    else none
  | _ => none

/-- The expansion of a pseudo-instruction's byte list (R69). -/
def expandBytes (expansion : List Byte → List Instr) (rest : List Char) : Option (List Command) :=
  (byteList rest).map fun bs => (expansion bs).map encode

/-- One line of assembler text (R68, R69): the commands it assembles to, or none where the assembler refuses it. Letter case is
ignored in `.word` and in the pseudo-instructions as in mnemonics; the spec says so of mnemonics only (DESIGN CHOICE
notes/assumptions/15.md). -/
def assembleLine (line : List Char) : Option (List Command) :=
  let text := trim line
  let mnemonic := (text.takeWhile fun c => !isBlank c).map lower
  let rest := trim (text.dropWhile fun c => !isBlank c)
  match mnemonicTable.find? fun row => row.1.toList = mnemonic with
  | some (_, form, op) => (assembleOperands form op (operands rest)).map fun c => [c]
  | none =>
    if mnemonic = ".word".toList then (assembleRaw rest).map fun c => [c]
    else if mnemonic = "crc32.init".toList && rest.isEmpty then some (crc32Init.map encode)
    else if mnemonic = "crc64.init".toList && rest.isEmpty then some (crc64Init.map encode)
    else if mnemonic = "crc32.bytes".toList then expandBytes crc32Bytes rest
    else if mnemonic = "crc64.bytes".toList then expandBytes crc64Bytes rest
    else if mnemonic = "vdec.buf".toList then expandBytes vdecBuf rest
    else if mnemonic = "vrd.bytes".toList then expandBytes vrdBytes rest
    else none

/-- A hexadecimal digit, in capitals. -/
def hexDigit (n : Nat) : Char := if n < 10 then Char.ofNat (48 + n) else Char.ofNat (55 + n)

/-- The last `k` hexadecimal digits of a number, most significant first. -/
def hexDigits : Nat → Nat → List Char
  | 0, _ => []
  | k + 1, n => hexDigits k (n / 16) ++ [hexDigit (n % 16)]

/-- The assembled form of a command, `WWWW:DDDDDDDDDDDDDDDD` (R68). -/
def assembledForm (c : Command) : List Char :=
  hexDigits 4 c.word.toNat ++ ':' :: hexDigits 16 c.data.toNat

end Sys2Proof.Machine
end

