-- ==== Sys2Proof/Safety.lean ====
section
/-! DEFINITION. The terms the statements use: the invariants of a reachable state (10_state.md R33), the access table (R34),
the pure functions of the varint decoders on numbers (40_varint.md R84, R90), the bitwise CRC (41_crc32.md R112), and runs of
commands (20_memory.md R45, 70_reset_and_hazards.md R187). -/

namespace Sys2Proof.Machine

/-! ### The registers -/

/-- The nine registers (10_state.md R21 to R29). -/
inductive Reg where
  | crc32Acc
  | crc64Acc
  | vdecAcc
  | vdecCnt
  | vdecStop
  | vrdAcc
  | vrdCnt
  | vrdState
  | sticky
  deriving DecidableEq, Repr

/-- The number a register holds. -/
def State.reg (s : State) : Reg → Nat
  | .crc32Acc => s.crc32Acc.toNat
  | .crc64Acc => s.crc64Acc.toNat
  | .vdecAcc => s.vdecAcc.toNat
  | .vdecCnt => s.vdecCnt.toNat
  | .vdecStop => s.vdecStop.toNat
  | .vrdAcc => s.vrdAcc.toNat
  | .vrdCnt => s.vrdCnt.toNat
  | .vrdState => s.vrdState.code.toNat
  | .sticky => s.sticky.toNat

/-- The registers a command writes, by the table of R34; `STICKY` by the column of that table, apart from errors. -/
def writes : Instr → List Reg
  | .nop => []
  | .crc32Seed _ => [.crc32Acc]
  | .crc32Upd _ _ => [.crc32Acc]
  | .crc32Get => []
  | .crc64Seed _ => [.crc64Acc]
  | .crc64Upd _ _ => [.crc64Acc]
  | .crc64Get => []
  | .venc _ => []
  | .vdecClr => [.vdecAcc, .vdecCnt, .vdecStop]
  | .vdecPush _ => [.vdecAcc, .vdecCnt, .vdecStop]
  | .vdecFin => []
  | .vrdStart => [.vrdAcc, .vrdCnt, .vrdState]
  | .vrdByte _ => [.vrdAcc, .vrdCnt, .vrdState]
  | .vrdEof => [.vrdState]
  | .vrdGet => []
  | .statGet => []
  | .statClr => [.sticky]

/-- The registers a command reads, by the table of R34. -/
def reads : Instr → List Reg
  | .nop => []
  | .crc32Seed _ => []
  | .crc32Upd _ _ => [.crc32Acc]
  | .crc32Get => [.crc32Acc]
  | .crc64Seed _ => []
  | .crc64Upd _ _ => [.crc64Acc]
  | .crc64Get => [.crc64Acc]
  | .venc _ => []
  | .vdecClr => []
  | .vdecPush _ => [.vdecAcc, .vdecCnt, .vdecStop]
  | .vdecFin => [.vdecAcc, .vdecCnt]
  | .vrdStart => []
  | .vrdByte _ => [.vrdAcc, .vrdCnt, .vrdState]
  | .vrdEof => [.vrdState]
  | .vrdGet => [.vrdAcc, .vrdCnt, .vrdState]
  | .statGet => [.vdecCnt, .vdecStop, .vrdCnt, .vrdState, .sticky]
  | .statClr => []

/-- The invariants of every reachable state (10_state.md R33); that the accumulators are at most `2^63 - 1` is in their
type. -/
structure RegisterInv (s : State) : Prop where
  vdecCnt_le : s.vdecCnt.toNat ≤ 10
  vrdCnt_le : s.vrdCnt.toNat ≤ 9
  active_cnt : s.vrdState = .active → s.vrdCnt.toNat ≤ 8
  done_cnt : s.vrdState = .done → 1 ≤ s.vrdCnt.toNat ∧ s.vrdCnt.toNat ≤ 9
  vrdAcc_lt : s.vrdAcc.toNat < 2 ^ (7 * s.vrdCnt.toNat)
  vdecAcc_lt : s.vdecAcc.toNat < 2 ^ (7 * min s.vdecCnt.toNat 9)
  sticky_legal : s.sticky ∈ [0x0, 0x8, 0x9, 0xA, 0xB, (0xC : Nibble)]

/-! ### Responses -/

/-- A response with nothing but a status (30_encoding.md R67). -/
def bare (st : Status) : Response := ⟨st, 0, 0, 0⟩

/-- The form of every response (30_encoding.md R66, R67): an error carries nothing else, MORE carries a count of 1 to 8,
no length is above 9, and only a 9-byte encoding has an extension byte. -/
def ResponseForm (r : Response) : Prop :=
  (∀ e, r.status = .error e → r = bare (.error e)) ∧
  (r.status = .more → r.data = 0 ∧ r.ext = 0 ∧ 1 ≤ r.len.toNat ∧ r.len.toNat ≤ 8) ∧
  r.len.toNat ≤ 9 ∧
  (r.ext ≠ 0 → r.len = 9)

/-- Every response of a state, in flight or taken, has the form of R66 and R67. -/
def ResponsesFormed (s : State) : Prop :=
  (∀ r, s.flight = some r → ResponseForm r) ∧ ∀ r ∈ s.responses, ResponseForm r

/-- `s` after a command that wrote no register and answers `r`: `r` is in flight, and nothing else has changed (but for
the counter of free values). -/
def answered (s : State) (r : Response) : State :=
  { s with channel := .inFlight 0 r, draws := s.draws + 1 }

/-- `s` after a command that failed with `e` and wrote no other register: the sticky update (60_exceptions.md R162) and
the bare error response (30_encoding.md R67). -/
def failed (s : State) (e : ErrorKind) : State :=
  answered { s with sticky := if s.sticky = 0 then e.code else s.sticky } (bare (.error e))

/-- The bytes of an encoding as VENC returns them: bytes 0 to 7 in the lanes of the data, byte 8 in the extension byte
(20_memory.md R49). -/
def responseBytes (r : Response) : List Byte :=
  (List.range r.len.toNat).map fun j => if j < 8 then lane r.data j else r.ext

/-! ### Command words -/

/-- The opcodes whose immediate must be 0 (30_encoding.md R64). -/
def plainOpcodes : List Nat :=
  [0x00, 0x01, 0x03, 0x04, 0x06, 0x10, 0x20, 0x22, 0x30, 0x32, 0x33, 0x40, 0x41]

/-- The three causes of an illegal command word, on its two fields as numbers (30_encoding.md R61, R65). -/
def IllegalWord (w : CmdWord) : Prop :=
  let op := w.toNat % 256
  let imm := w.toNat / 256
  op ∉ plainOpcodes ++ [0x02, 0x05, 0x21, 0x31] ∨
  ((op = 0x02 ∨ op = 0x05) ∧ 8 < imm) ∨
  (op ∈ plainOpcodes ∧ imm ≠ 0)

/-- The command word with these fields runs as `i` of its data word where its immediate is 0, and is illegal
otherwise (30_encoding.md R64, R65). -/
def PlainEncoding (op : Byte) (i : Data → Instr) : Prop :=
  (∀ d s, runCommand ⟨0#8 ++ op, d⟩ s = exec (i d) s) ∧
  ∀ imm d s, imm ≠ 0#8 → runCommand ⟨imm ++ op, d⟩ s = .next (failed s .illegalCommand)

/-- The command word runs as `i` of its immediate and data word where the immediate is at most 8, and is illegal
otherwise (R64, R65). -/
def CountEncoding (op : Byte) (i : Byte → Data → Instr) : Prop :=
  (∀ (k : Byte) d s, k.toNat ≤ 8 → runCommand ⟨k ++ op, d⟩ s = exec (i k d) s) ∧
  ∀ (k : Byte) d s, 8 < k.toNat → runCommand ⟨k ++ op, d⟩ s = .next (failed s .illegalCommand)

/-- The command word runs as `i` of its immediate, whatever it and the data word are (R64). -/
def ByteEncoding (op : Byte) (i : Byte → Instr) : Prop :=
  ∀ b d s, runCommand ⟨b ++ op, d⟩ s = exec (i b) s

/-- The line of assembler text assembles to this one command (30_encoding.md R68). -/
def AssemblesTo (line : String) (w : CmdWord) (d : Data) : Prop := assembleLine line.toList = some [⟨w, d⟩]

/-- The bits of `cmd_data` a command uses, as a mask (30_encoding.md R63): by opcode and immediate. -/
def usedData (w : CmdWord) : Data :=
  let op := w.toNat % 256
  if op = 0x01 then 0xFFFFFFFF
  else if op = 0x02 ∨ op = 0x05 then BitVec.ofNat 64 (2 ^ (8 * (w.toNat / 256)) - 1)
  else if op = 0x04 ∨ op = 0x10 then BitVec.allOnes 64
  else 0

/-! ### The functions of the source, on numbers -/

/-- `acc | ((b & 0x7F) << 7i)` on natural numbers (40_varint.md R84, R90; 00_scope.md R12). -/
def withGroup (acc : Nat) (b : Byte) (i : Nat) : Nat := acc ||| ((b.toNat &&& 0x7F) <<< (7 * i))

/-- The accumulation of `dec` from position `i` (40_varint.md R84). -/
def decLoop : Nat → Nat → List Byte → Nat
  | _, acc, [] => acc
  | i, acc, b :: bs => if 1 ≤ i ∧ b = 0 then acc else decLoop (i + 1) (withGroup acc b i) bs

/-- The decode function `dec` (40_varint.md R84); none is VarintTooLong. -/
def dec (bs : List Byte) : Option Nat := if 9 < bs.length then none else some (decLoop 0 0 bs)

/-- What `rd` returns (40_varint.md R90). -/
inductive ReadOutcome where
  | value (v consumed : Nat)
  | tooLong
  | truncated
  deriving DecidableEq, Repr

/-- The loop of `rd`: the rounds left, the position, the value so far (40_varint.md R90). -/
def rdLoop : Nat → Nat → Nat → List Byte → ReadOutcome
  | 0, _, _, _ => .tooLong
  | _ + 1, _, _, [] => .truncated
  | rounds + 1, i, acc, b :: bs =>
    if b.toNat < 0x80 then .value (withGroup acc b i) (i + 1)
    else rdLoop rounds (i + 1) (withGroup acc b i) bs

/-- The read function `rd` on a source that holds these bytes and then ends (40_varint.md R90). -/
def rd (bs : List Byte) : ReadOutcome := rdLoop 9 0 0 bs

/-- `step32_bitwise` and `step64_bitwise` (41_crc32.md R112, 42_crc64.md R132). -/
def crcStepBitwise {n : Nat} (poly c : BitVec n) (m : Byte) : BitVec n :=
  crcShifts poly 8 (c ^^^ m.setWidth n)

/-- The CRC of 41_crc32.md R111 and 42_crc64.md R131 with the bitwise step. -/
def crcBitwise {n : Nat} (poly seed : BitVec n) (bytes : List Byte) : BitVec n :=
  ~~~(bytes.foldl (crcStepBitwise poly) (~~~seed))

/-- The bytes a command absorbs into the CRC-32 (41_crc32.md R114). -/
def absorbed32 : Instr → List Byte
  | .nop => []
  | .crc32Seed _ => []
  | .crc32Upd k data => lanes data k.toNat
  | .crc32Get => []
  | .crc64Seed _ => []
  | .crc64Upd _ _ => []
  | .crc64Get => []
  | .venc _ => []
  | .vdecClr => []
  | .vdecPush _ => []
  | .vdecFin => []
  | .vrdStart => []
  | .vrdByte _ => []
  | .vrdEof => []
  | .vrdGet => []
  | .statGet => []
  | .statClr => []

/-- The bytes a command absorbs into the CRC-64 (42_crc64.md R134). -/
def absorbed64 : Instr → List Byte
  | .nop => []
  | .crc32Seed _ => []
  | .crc32Upd _ _ => []
  | .crc32Get => []
  | .crc64Seed _ => []
  | .crc64Upd k data => lanes data k.toNat
  | .crc64Get => []
  | .venc _ => []
  | .vdecClr => []
  | .vdecPush _ => []
  | .vdecFin => []
  | .vrdStart => []
  | .vrdByte _ => []
  | .vrdEof => []
  | .vrdGet => []
  | .statGet => []
  | .statClr => []

/-! ### Runs of commands -/

/-- `n` steps, `n` edges of `clk`, stopping at the first fault. -/
def steps : Nat → State → Result
  | 0, s => .next s
  | n + 1, s =>
    match step s with
    | .next t => steps n t
    | .fault f => .fault f
    | .refused r => .refused r

/-- Instructions executed one after another (20_memory.md R45). -/
def execAll : List Instr → State → Result
  | [], s => .next s
  | i :: rest, s =>
    match exec i s with
    | .next t => execAll rest t
    | .fault f => .fault f
    | .refused r => .refused r

/-- The state once the host has taken the response in flight: it is recorded and the block is ready. -/
def State.settle (s : State) : State :=
  { s with channel := .ready, responses := s.responses ++ s.flight.toList }

/-- A sequence of commands at the transaction level (20_memory.md R44, R45): each is one atomic step that reads the state,
writes the state and yields one response. -/
def transact : List Command → State → Result
  | [], s => .next s
  | c :: rest, s =>
    match runCommand c s with
    | .next t => transact rest t.settle
    | .fault f => .fault f
    | .refused r => .refused r

/-- Commands one after another as transaction-level steps: the registers after the last, and one response per command in
order, the observable result of a run (10_state.md R32, 70_reset_and_hazards.md R187). -/
def runTransactions : List Command → Registers → Registers × List Response
  | [], g => (g, [])
  | c :: rest, g =>
    let e := transaction c g
    let after := runTransactions rest e.regs
    (after.1, e.rsp :: after.2)

/-- What a host drives to issue one command to a ready block: present it, wait `waits` edges, take the response. -/
def drive (c : Command) (waits : Nat) : List PortIn :=
  ⟨false, true, c, false⟩ :: (List.replicate waits ⟨false, false, ⟨0, 0⟩, false⟩ ++ [⟨false, false, ⟨0, 0⟩, true⟩])

/-- What a host drives to issue several commands, each with its number of waits. -/
def driveAll (cmds : List (Command × Nat)) : List PortIn := cmds.flatMap fun p => drive p.1 p.2

/-- Every wait is long enough for the latency of its command, the first of them drawn as number `draw`. -/
def waitsLongEnough (cmds : List (Command × Nat)) (draw : Nat) : Prop :=
  ∀ j, ∀ p, cmds[j]? = some p → Config.latency (draw + j) ≤ p.2 + 1

/-- The reader protocol of 40_varint.md R91: VRD.BYTE for each byte of the source while the response is MORE. Answers the
state after the last VRD.BYTE issued and the bytes of the source not consumed. -/
def readBytes : List Byte → State → Option (State × List Byte)
  | [], s => some (s, [])
  | b :: bs, s =>
    match exec (.vrdByte b) s with
    | .next t =>
      if (t.flight.map fun r => r.status) = some .more then readBytes bs t else some (t, bs)
    | .fault _ => none
    | .refused _ => none

end Sys2Proof.Machine
end

