-- ==== Sys2Proof/Certificates/Slice0/Obligations.lean ====
section
/-! DEFINITION. The statements for the provers. A statement of a command's result gives the whole next state: `answered s r`
is `s` with the response `r` in flight and nothing else changed, `failed s e` is that of an error with the sticky update; so
each is also the command's frame. -/

open Sys2Proof Sys2Proof.Machine

/-! ### Encoding and decoding -/

/-- Words written out from the encodings of 30_encoding.md R61, R64 (a sanity statement: the examples of R68, R82, R87,
R94, R113, R114). -/
def Obligations.SampleWordsDecodeAsTabled : Prop :=
  decode 0x0000#16 0#64 = .ok .nop ∧
  decode 0x0001#16 0x00000000BCA0D360#64 = .ok (.crc32Seed 0xBCA0D360#32) ∧
  decode 0x0402#16 0x0000000074736574#64 = .ok (.crc32Upd 4#8 0x74736574#64) ∧
  decode 0x0305#16 0x0000000000636261#64 = .ok (.crc64Upd 3#8 0x636261#64) ∧
  decode 0x0010#16 0x000000000000012C#64 = .ok (.venc 300#64) ∧
  decode 0xAC21#16 0#64 = .ok (.vdecPush 0xAC#8) ∧
  decode 0x0231#16 0#64 = .ok (.vrdByte 0x02#8) ∧
  decode 0x0041#16 0#64 = .ok .statClr ∧
  decode 0x0100#16 0#64 = .error .immediateNotZero ∧
  decode 0x0902#16 0x61#64 = .error .byteCountAbove8 ∧
  decode 0x0007#16 0#64 = .error .reservedOpcode

/-- Decode and encode agree, at every operand the encoding admits (30_encoding.md R61, R64, R70). -/
def Obligations.DecodeOfEncodeIsTheInstruction : Prop :=
  ∀ i : Instr, i.WellFormed → decode (encode i).word (encode i).data = .ok i

/-- What the decoder accepts is well formed, and encodes to the same command word and to the data bits the instruction
takes (30_encoding.md R61, R63, R68). -/
def Obligations.EncodeOfDecodeRestoresTheWord : Prop :=
  ∀ (w : CmdWord) (d : Data) (i : Instr), decode w d = .ok i →
    i.WellFormed ∧ (encode i).word = w ∧ (encode i).data &&& usedData w = d &&& usedData w

/-- 30_encoding.md R65: the illegal command words are those of its list, and what an illegal word does is the
IllegalCommand failure and nothing else. There are 239 reserved opcodes. -/
def Obligations.IllegalWordsAreExactlyTheListed : Prop :=
  (∀ (w : CmdWord) (d : Data), (∃ e, decode w d = .error e) ↔ IllegalWord w) ∧
  (∀ (c : Command) (s : State), IllegalWord c.word → runCommand c s = .next (failed s .illegalCommand)) ∧
  ((List.range 256).filter fun op => decide (op ∉ plainOpcodes ++ [0x02, 0x05, 0x21, 0x31])).length = 239

/-- 30_encoding.md R63: the bits of `cmd_data` a command does not use may hold any value, and the result, state and
response, does not depend on them. -/
def Obligations.UnusedDataBitsDoNotMatter : Prop :=
  ∀ (w : CmdWord) (d d' : Data) (s : State), d &&& usedData w = d' &&& usedData w →
    runCommand ⟨w, d⟩ s = runCommand ⟨w, d'⟩ s

/-- 60_exceptions.md R161: an illegal command, whatever the state, reads and writes no register but for the sticky update,
and its response is IllegalCommand (0xB) with every other field zero. -/
def Obligations.IllegalCommandOnlyUpdatesSticky : Prop :=
  ∀ (c : Command) (s : State), IllegalWord c.word →
    ∃ t, runCommand c s = .next t ∧
      t = { s with
        sticky := if s.sticky = 0x0#4 then 0xB#4 else s.sticky
        channel := .inFlight 0 ⟨.error .illegalCommand, 0#64, 0#8, 0#4⟩
        draws := s.draws + 1 } ∧
      (Status.error .illegalCommand).code = 0xB#4

/-! ### Steps, the handshake and reset -/

/-- A step at which the host presents a command to a ready block runs the decoded instruction, on the state whose input
has been used (20_memory.md R42, R44; 30_encoding.md R70); so does the step of `withFetchWord`. The model's choices in it: that
a block with no command in flight and its tables built is ready, so that it accepts at this very edge
(notes/assumptions/5.md); and, in the `withFetchWord` clause, that a command is placed at the head of `inputs`
(notes/assumptions/1.md) and how its bits are numbered (notes/assumptions/16.md). -/
def Obligations.StepRunsTheDecodedCommand : Prop :=
  (∀ (s : State) (c : Command) (rspReady : Bool) (rest : List PortIn) (i : Instr),
    s.cmdReady = true → (s.held = none ∨ s.held = some c) →
    s.inputs = ⟨false, true, c, rspReady⟩ :: rest → decode c.word c.data = .ok i →
      step s = exec i { s with inputs := rest, held := none }) ∧
  (∀ (s : State) (nbits w : Nat) (i : Instr), decodeTableWord nbits w = some i →
    step (s.withFetchWord nbits w) = exec i { s with channel := .ready, held := none })

/-- 70_reset_and_hazards.md R180, the table: the registers right after reset; and no command is in flight. -/
def Obligations.ResetStateIsAsListed : Prop :=
  State.reset.crc32Acc = 0x00000000#32 ∧ State.reset.crc64Acc = 0x0000000000000000#64 ∧
  State.reset.vdecAcc = 0#63 ∧ State.reset.vdecCnt = 0#4 ∧ State.reset.vdecStop = false ∧
  State.reset.vrdAcc = 0#63 ∧ State.reset.vrdCnt = 0#4 ∧ State.reset.vrdState = .idle ∧
  State.reset.sticky = 0x0#4 ∧ State.reset.flight = none ∧ State.reset.rspValid = false

/-- 70_reset_and_hazards.md R180, R181: at an edge with `rst = 1`, from any state and whatever else the host drives, every
register takes its reset value, nothing is accepted or taken, and a command in flight and its response are gone. -/
def Obligations.ResetEdgeFromAnyState : Prop :=
  ∀ (s : State) (p : PortIn) (rest : List PortIn), s.inputs = p :: rest → p.rst = true →
    s.accepts p = false ∧ s.takes p = false ∧ s.ports true = ⟨false, false, none⟩ ∧
    ∃ t, step s = .next t ∧
      t.crc32Acc = 0#32 ∧ t.crc64Acc = 0#64 ∧ t.vdecAcc = 0#63 ∧ t.vdecCnt = 0#4 ∧ t.vdecStop = false ∧
      t.vrdAcc = 0#63 ∧ t.vrdCnt = 0#4 ∧ t.vrdState = .idle ∧ t.sticky = 0#4 ∧
      t.flight = none ∧ t.responses = s.responses ∧ t.inputs = rest

/-- 20_memory.md R43: at an edge with `rsp_valid = 1` and `rsp_ready = 1` the response is taken, once, and no register
changes; the block is then ready (R44), from the next edge on by the model's reading (notes/assumptions/5.md, 6.md). -/
def Obligations.ResponseIsTakenAtValidAndReady : Prop :=
  ∀ (s : State) (p : PortIn) (rest : List PortIn) (r : Response),
    s.inputs = p :: rest → p.rst = false → s.breaksHold p = false →
    s.flight = some r → s.rspValid = true → p.rspReady = true →
      ∃ t, step s = .next t ∧ t.responses = s.responses ++ [r] ∧ t.flight = none ∧ t.cmdReady = true ∧
        t.inputs = rest ∧ ∀ g, t.reg g = s.reg g

/-- 20_memory.md R43: until it is taken or reset intervenes, the block holds `rsp_valid` and the response fields stable;
no register changes. -/
def Obligations.UntakenResponseStaysStable : Prop :=
  ∀ (s : State) (p : PortIn) (rest : List PortIn),
    s.inputs = p :: rest → p.rst = false → s.breaksHold p = false → s.rspValid = true → p.rspReady = false →
      ∃ t, step s = .next t ∧ t.ports false = s.ports false ∧ t.rspValid = true ∧
        t.responses = s.responses ∧ ∀ g, t.reg g = s.reg g

/-- 20_memory.md R44: at most one command is in flight. `cmd_ready` is 0 from the acceptance of a command until its
response is taken; until then each step keeps the response, hands it to the host, or is a reset. That `cmd_ready` is still 0,
and nothing is accepted, at the edge that takes the response is the model's reading of R44, which is open to two
(notes/assumptions/6.md). -/
def Obligations.OneCommandInFlight : Prop :=
  (∀ (c : Command) (s t : State), runCommand c s = .next t → t.cmdReady = false ∧ ∃ r, t.flight = some r) ∧
  (∀ (s t : State) (r : Response), s.flight = some r → step s = .next t →
    s.cmdReady = false ∧ s.accepts s.drives = false ∧
    ((t.flight = some r ∧ t.responses = s.responses) ∨
     (s.takes s.drives = true ∧ t.flight = none ∧ t.responses = s.responses ++ [r]) ∨
     (s.drives.rst = true ∧ t.flight = none ∧ t.responses = s.responses)))

/-- 20_memory.md R48: the block never acts on its own; every register change is the effect of an accepted command or of
reset. -/
def Obligations.RegistersChangeOnlyByCommandOrReset : Prop :=
  ∀ s t : State, step s = .next t →
    (∀ g, t.reg g = s.reg g) ∨ s.drives.rst = true ∨ s.accepts s.drives = true

/-- 70_reset_and_hazards.md R186: every accepted command gets its response unless reset intervenes, within its latency,
whatever that is; the host may meanwhile do what it may (no reset, and no step of the run stops). Which edge a latency
of n is, is the model's reading (notes/assumptions/7.md, 11.md). -/
def Obligations.CommandIsAnsweredWithinItsLatency : Prop :=
  ∀ (n waited : Nat) (s u : State) (r : Response),
    s.channel = .inFlight waited r → Config.latency s.draws ≤ waited + 1 + n →
    (∀ p ∈ s.inputs.take n, p.rst = false) → steps n s = .next u →
      ∃ m, m ≤ n ∧ ∃ t : State, steps m s = .next t ∧ t.flight = some r ∧ t.rspValid = true

/-- 70_reset_and_hazards.md R183: after reset, once its tables are built, the block is ready for its first command, with
nothing to set up. That it is ready as soon as they are built is the model's reading (notes/assumptions/5.md). -/
def Obligations.BlockBecomesReadyAfterReset : Prop :=
  ∀ (n : Nat) (s u : State) (p : PortIn) (rest : List PortIn),
    s.inputs = p :: rest → p.rst = true → Config.tableBuild (s.draws + 1) ≤ n →
    (∀ q ∈ rest.take n, q.rst = false) → steps (n + 1) s = .next u →
      ∃ m, m ≤ n ∧ ∃ t : State, steps (m + 1) s = .next t ∧ t.cmdReady = true

/-- 20_memory.md R44, R45: the clocked handshake refines the atomic view. A host that presents commands one after another,
waits as long as each latency needs and takes each response, gets exactly the run of atomic commands in order: the same
registers, and one response per command in the same order. At which edges that happens is the model's choice: a block with no
command in flight is ready (notes/assumptions/5.md), from the edge after a taken response on (notes/assumptions/6.md), and the
bound on the waits is notes/assumptions/7.md, 11.md. -/
def Obligations.HandshakeRunIsTheAtomicRun : Prop :=
  ∀ (cmds : List (Command × Nat)) (s : State) (rest : List PortIn),
    s.channel = .ready → s.held = none → s.inputs = driveAll cmds ++ rest → waitsLongEnough cmds (s.draws + 1) →
      (steps (driveAll cmds).length s = transact (cmds.map fun p => p.1) { s with inputs := rest }) ∧
      ∃ t : State, steps (driveAll cmds).length s = .next t ∧
        t.responses.length = s.responses.length + cmds.length

/-- A step stops only where the host breaks the handshake of 20_memory.md R42, R51 (93_implementation_defined.md K16: no
step); that it stops there, and that withdrawing a command counts, is the model's choice (notes/assumptions/8.md, 9.md). Where
the host's list has ended the step goes on: that, too, is the model's choice of what is then driven, no reset and a held command
presented (DESIGN CHOICE, notes/assumptions/1.md). -/
def Obligations.StepStopsOnlyOnABrokenHold : Prop :=
  ∀ s : State,
    (step s = .fault .hostBrokeHandshake ↔
      s.drives.rst = false ∧ ∃ c, s.held = some c ∧ ¬(s.drives.cmdValid = true ∧ s.drives.cmd = c)) ∧
    (s.inputs = [] → ∃ t, step s = .next t) ∧
    ∀ r, step s ≠ .refused r

/-! ### CRC commands -/

/-- 41_crc32.md R113, CRC32.SEED. -/
def Obligations.Crc32SeedLoadsTheSeed : Prop :=
  (∀ seed s, exec (.crc32Seed seed) s = .next (answered { s with crc32Acc := seed } (bare .ok))) ∧
  PlainEncoding 0x01#8 (fun d => .crc32Seed (d.extractLsb' 0 32)) ∧
  AssemblesTo "crc32.seed 0xBCA0D360" 0x0001#16 0x00000000BCA0D360#64 ∧ AssemblesTo "crc32.init" 0x0001#16 0#64

/-- 41_crc32.md R114, CRC32.UPD, with the per-byte step computed bit by bit (R112); a count above 8 fails and leaves
`CRC32_ACC` unchanged. -/
def Obligations.Crc32UpdAbsorbsTheLanes : Prop :=
  (∀ (k : Byte) d s, k.toNat ≤ 8 →
    exec (.crc32Upd k d) s = .next (answered
      { s with crc32Acc := crcBitwise 0xEDB88320#32 s.crc32Acc
                 ((List.range k.toNat).map fun j => d.extractLsb' (8 * j) 8) }
      (bare .ok))) ∧
  (∀ (k : Byte) d s, 8 < k.toNat → exec (.crc32Upd k d) s = .next (failed s .illegalCommand)) ∧
  CountEncoding 0x02#8 .crc32Upd ∧
  AssemblesTo "crc32.upd 3, 0x636261" 0x0302#16 0x0000000000636261#64

/-- 41_crc32.md R115, CRC32.GET. -/
def Obligations.Crc32GetRespondsTheChecksum : Prop :=
  (∀ s, exec .crc32Get s = .next (answered s ⟨.ok, BitVec.ofNat 64 s.crc32Acc.toNat, 0, 4⟩)) ∧
  PlainEncoding 0x03#8 (fun _ => .crc32Get) ∧
  AssemblesTo "crc32.get" 0x0003#16 0#64

/-- 42_crc64.md R133, CRC64.SEED. -/
def Obligations.Crc64SeedLoadsTheSeed : Prop :=
  (∀ seed s, exec (.crc64Seed seed) s = .next (answered { s with crc64Acc := seed } (bare .ok))) ∧
  PlainEncoding 0x04#8 (fun d => .crc64Seed d) ∧
  AssemblesTo "crc64.seed 0xB09DA6A8EA2E7EFD" 0x0004#16 0xB09DA6A8EA2E7EFD#64 ∧ AssemblesTo "crc64.init" 0x0004#16 0#64

/-- 42_crc64.md R134, CRC64.UPD, with the per-byte step computed bit by bit (R132). -/
def Obligations.Crc64UpdAbsorbsTheLanes : Prop :=
  (∀ (k : Byte) d s, k.toNat ≤ 8 →
    exec (.crc64Upd k d) s = .next (answered
      { s with crc64Acc := crcBitwise 0xC96C5795D7870F42#64 s.crc64Acc
                 ((List.range k.toNat).map fun j => d.extractLsb' (8 * j) 8) }
      (bare .ok))) ∧
  (∀ (k : Byte) d s, 8 < k.toNat → exec (.crc64Upd k d) s = .next (failed s .illegalCommand)) ∧
  CountEncoding 0x05#8 .crc64Upd ∧
  AssemblesTo "crc64.upd 3, 0x636261" 0x0305#16 0x0000000000636261#64

/-- 42_crc64.md R135, CRC64.GET. -/
def Obligations.Crc64GetRespondsTheChecksum : Prop :=
  (∀ s, exec .crc64Get s = .next (answered s ⟨.ok, s.crc64Acc, 0, 8⟩)) ∧
  PlainEncoding 0x06#8 (fun _ => .crc64Get) ∧
  AssemblesTo "crc64.get" 0x0006#16 0#64

/-- 41_crc32.md R112, 42_crc64.md R132: the block's per-byte step is the step through the table, and equals the step bit by
bit, for every register and byte. -/
def Obligations.TableStepIsBitwiseStep : Prop :=
  (∀ (c : BitVec 32) (m : Byte),
    crcStep poly32 c m = t32 ((c ^^^ m.setWidth 32).extractLsb' 0 8) ^^^ (c >>> 8) ∧
    crcStep poly32 c m = crcStepBitwise 0xEDB88320#32 c m) ∧
  (∀ (c : BitVec 64) (m : Byte),
    crcStep poly64 c m = t64 ((c ^^^ m.setWidth 64).extractLsb' 0 8) ^^^ (c >>> 8) ∧
    crcStep poly64 c m = crcStepBitwise 0xC96C5795D7870F42#64 c m)

/-- Values the spec prints: table entries of 10_state.md R30, R31; the check values of 41_crc32.md R110 and 42_crc64.md R130
for ASCII `123456789`; one zero byte (R114, R134); the source's value for the 15 bytes of V1 and V2, with seed 0. -/
def Obligations.KnownCrcValues : Prop :=
  t32 0x01#8 = 0x77073096#32 ∧ t32 0x80#8 = 0xEDB88320#32 ∧ t32 0xFF#8 = 0x2D02EF8D#32 ∧
  t64 0x01#8 = 0xB32E4CBE03A75F6F#64 ∧ t64 0x80#8 = 0xC96C5795D7870F42#64 ∧ t64 0xFF#8 = 0xE0ADA17364673F59#64 ∧
  crc32 0#32 [0x31, 0x32, 0x33, 0x34, 0x35, 0x36, 0x37, 0x38, 0x39] = 0xCBF43926#32 ∧
  crc64 0#64 [0x31, 0x32, 0x33, 0x34, 0x35, 0x36, 0x37, 0x38, 0x39] = 0x995DC9BBDF1939FA#64 ∧
  crc32 0#32 [0x00] = 0xD202EF8D#32 ∧ crc64 0#64 [0x00] = 0x1FADA17364673F59#64 ∧
  crc32 0#32 [0x74, 0x68, 0x69, 0x73, 0x20, 0x69, 0x73, 0x20, 0x61, 0x20, 0x74, 0x65, 0x73, 0x74, 0x0A] = 0x72051312#32 ∧
  crc64 0#64 [0x74, 0x68, 0x69, 0x73, 0x20, 0x69, 0x73, 0x20, 0x61, 0x20, 0x74, 0x65, 0x73, 0x74, 0x0A]
    = 0x643D26FB7156AB08#64

/-- The chaining law at the machine (41_crc32.md R116; 10_state.md R21): after any commands, well formed and without a
CRC32.SEED, `CRC32_ACC` is the CRC-32, from the value before them, of every byte they absorbed, in order, however they split
it and whatever stands between. -/
def Obligations.Crc32AccIsTheCrcOfAllAbsorbed : Prop :=
  ∀ (prog : List Instr) (s : State), (∀ i ∈ prog, i.WellFormed ∧ ∀ seed, i ≠ .crc32Seed seed) →
    ∃ t, execAll prog s = .next t ∧ t.crc32Acc = crcBitwise 0xEDB88320#32 s.crc32Acc (prog.flatMap absorbed32)

/-- The chaining law at the machine for CRC-64 (42_crc64.md R136; 10_state.md R22). -/
def Obligations.Crc64AccIsTheCrcOfAllAbsorbed : Prop :=
  ∀ (prog : List Instr) (s : State), (∀ i ∈ prog, i.WellFormed ∧ ∀ seed, i ≠ .crc64Seed seed) →
    ∃ t, execAll prog s = .next t ∧
      t.crc64Acc = crcBitwise 0xC96C5795D7870F42#64 s.crc64Acc (prog.flatMap absorbed64)

/-- The pseudo-instructions `crc32.bytes` and `crc64.bytes` (30_encoding.md R69) absorb their whole byte list, of any
length, with CRC updates of at most 8 bytes (20_memory.md R46, R47), and touch no other register. -/
def Obligations.CrcBytesAbsorbsTheWholeList : Prop :=
  ∀ (bytes : List Byte) (s : State),
    (∃ t, execAll (crc32Bytes bytes) s = .next t ∧ t.crc32Acc = crcBitwise 0xEDB88320#32 s.crc32Acc bytes ∧
      ∀ g, g ≠ .crc32Acc → t.reg g = s.reg g) ∧
    (∃ t, execAll (crc64Bytes bytes) s = .next t ∧ t.crc64Acc = crcBitwise 0xC96C5795D7870F42#64 s.crc64Acc bytes ∧
      ∀ g, g ≠ .crc64Acc → t.reg g = s.reg g)

/-- 20_memory.md R46: a checksum read by a GET in a state `s` and later given to a SEED, in any state `s'`, continues as
it stood. -/
def Obligations.SeedOfTheValueReadContinues : Prop :=
  ∀ s s' : State,
    (∃ t r u, exec .crc32Get s = .next t ∧ t.flight = some r ∧
      runCommand ⟨0x0001#16, r.data⟩ s' = .next u ∧ u.crc32Acc = s.crc32Acc) ∧
    (∃ t r u, exec .crc64Get s = .next t ∧ t.flight = some r ∧
      runCommand ⟨0x0004#16, r.data⟩ s' = .next u ∧ u.crc64Acc = s.crc64Acc)

/-! ### Varint encode -/

/-- 40_varint.md R82, VENC: the data field is the sum of `e_i * 2^(8i)` over the first 8 bytes, the extension byte is byte
8, the length that of the encoding; a value above `2^63 - 1` fails. `enc` is pinned by EncodingFollowsTheFormat. -/
def Obligations.VencRespondsTheEncoding : Prop :=
  (∀ (v : Data) s, v.toNat < 2 ^ 63 →
    exec (.venc v) s = .next (answered s
      ⟨.ok, BitVec.ofNat 64 (∑ i ∈ Finset.range (min (enc v).length 8), ((enc v).getD i 0).toNat * 2 ^ (8 * i)),
        (enc v).getD 8 0, BitVec.ofNat 4 (enc v).length⟩)) ∧
  (∀ (v : Data) s, 2 ^ 63 ≤ v.toNat → exec (.venc v) s = .next (failed s .varintTooLarge)) ∧
  PlainEncoding 0x10#8 (fun d => .venc d) ∧
  AssemblesTo "venc 300" 0x0010#16 0x000000000000012C#64

/-- 40_varint.md R80, R83: byte `i` of an encoding carries value bits `7i+6 .. 7i`; bit 7 is set on every byte but the last;
the length is 1 below `2^7` and otherwise the least `n` with `v < 2^(7n)`; the last byte is nonzero unless the value is 0. -/
def Obligations.EncodingFollowsTheFormat : Prop :=
  ∀ v : Data, v.toNat < 2 ^ 63 →
    1 ≤ (enc v).length ∧ (enc v).length ≤ 9 ∧
    (∀ i b, (enc v)[i]? = some b →
      b.toNat % 128 = v.toNat / 2 ^ (7 * i) % 128 ∧ (128 ≤ b.toNat ↔ i + 1 < (enc v).length)) ∧
    v.toNat < 2 ^ (7 * (enc v).length) ∧
    (∀ n, 1 ≤ n → v.toNat < 2 ^ (7 * n) → (enc v).length ≤ n) ∧
    ((enc v).getLast? = some 0#8 ↔ v = 0#64)

/-- 40_varint.md R89, the decode laws: the round trip, why it holds, and the inputs that are no minimal varint, with the
values the rule prints; VENC never gives them. -/
def Obligations.DecodeLaws : Prop :=
  (∀ v : Data, v.toNat < 2 ^ 63 →
    dec (enc v) = some v.toNat ∧ (enc v).length ≤ 9 ∧ (∀ i, 1 ≤ i → (enc v)[i]? ≠ some 0#8) ∧
    enc v ∉ [[0x05#8, 0x03#8], [0x80#8, 0x00#8, 0x01#8], [0x00#8, 0x05#8], List.replicate 9 0xFF#8]) ∧
  dec [0x05#8, 0x03#8] = some 0x185 ∧ dec [0x80#8, 0x00#8, 0x01#8] = some 0 ∧ dec [0x00#8, 0x05#8] = some 0x280 ∧
  dec (List.replicate 9 0xFF#8) = some (2 ^ 63 - 1)

/-! ### The buffer decoder -/

/-- 40_varint.md R86, VDEC.CLR. -/
def Obligations.VdecClrClearsTheDecoder : Prop :=
  (∀ s, exec .vdecClr s = .next (answered { s with vdecAcc := 0, vdecCnt := 0, vdecStop := false } (bare .ok))) ∧
  PlainEncoding 0x20#8 (fun _ => .vdecClr) ∧
  AssemblesTo "vdec.clr" 0x0020#16 0#64

/-- 40_varint.md R87, VDEC.PUSH, on numbers: the count saturates at 10; a zero byte after the first stops accumulation;
a byte at position 0 to 8 is accumulated; every byte value and every state is answered OK. -/
def Obligations.VdecPushCountsAndAccumulates : Prop :=
  (∀ (b : Byte) s, exec (.vdecPush b) s = .next (answered
    { s with
      vdecCnt := BitVec.ofNat 4 (min (s.vdecCnt.toNat + 1) 10)
      vdecStop := s.vdecStop || (decide (1 ≤ s.vdecCnt.toNat) && decide (b = 0))
      vdecAcc :=
        if s.vdecStop = false ∧ ¬(1 ≤ s.vdecCnt.toNat ∧ b = 0) ∧ s.vdecCnt.toNat ≤ 8 then
          BitVec.ofNat 63 (withGroup s.vdecAcc.toNat b s.vdecCnt.toNat)
        else s.vdecAcc }
    (bare .ok))) ∧
  ByteEncoding 0x21#8 .vdecPush ∧
  AssemblesTo "vdec.push 0xAC" 0xAC21#16 0#64

/-- 40_varint.md R88, VDEC.FIN. -/
def Obligations.VdecFinRespondsOrFails : Prop :=
  (∀ s, s.vdecCnt.toNat ≤ 9 →
    exec .vdecFin s = .next (answered s ⟨.ok, BitVec.ofNat 64 s.vdecAcc.toNat, 0, s.vdecCnt⟩)) ∧
  (∀ s, 9 < s.vdecCnt.toNat → exec .vdecFin s = .next (failed s .varintTooLong)) ∧
  PlainEncoding 0x22#8 (fun _ => .vdecFin) ∧
  AssemblesTo "vdec.fin" 0x0022#16 0#64

/-- 40_varint.md R85: VDEC.CLR, one VDEC.PUSH per byte and VDEC.FIN compute `dec` (R84) of any byte sequence, from any
state, and touch neither the CRC registers nor the reader. -/
def Obligations.BufferDecoderComputesDec : Prop :=
  ∀ (bytes : List Byte) (s : State), ∃ t, execAll (vdecBuf bytes) s = .next t ∧
    (∀ v, dec bytes = some v → t.flight = some ⟨.ok, BitVec.ofNat 64 v, 0, BitVec.ofNat 4 bytes.length⟩ ∧ v < 2 ^ 63 ∧
      t.sticky = s.sticky) ∧
    (dec bytes = none → t.flight = some (bare (.error .varintTooLong))) ∧
    t.vdecCnt.toNat = min bytes.length 10 ∧
    (t.vdecStop = true ↔ ∃ i, 1 ≤ i ∧ bytes[i]? = some 0#8) ∧
    ∀ g ∈ [Reg.crc32Acc, .crc64Acc, .vrdAcc, .vrdCnt, .vrdState], t.reg g = s.reg g

/-! ### The stream reader -/

/-- 40_varint.md R93, VRD.START, in every reader state. -/
def Obligations.VrdStartStartsARead : Prop :=
  (∀ s, exec .vrdStart s = .next (answered { s with vrdAcc := 0, vrdCnt := 0, vrdState := .active } (bare .ok))) ∧
  PlainEncoding 0x30#8 (fun _ => .vrdStart) ∧
  AssemblesTo "vrd.start" 0x0030#16 0#64

/-- 40_varint.md R94, VRD.BYTE, on numbers, in its four cases. In ACTIVE at most 8 bytes have been read (10_state.md R33,
StepKeepsTheRegisterInvariants). -/
def Obligations.VrdByteReadsOneByte : Prop :=
  (∀ (b : Byte) s, s.vrdState = .active → s.vrdCnt.toNat ≤ 8 → b.toNat < 0x80 →
    exec (.vrdByte b) s = .next (answered
      { s with
        vrdAcc := BitVec.ofNat 63 (withGroup s.vrdAcc.toNat b s.vrdCnt.toNat)
        vrdCnt := BitVec.ofNat 4 (s.vrdCnt.toNat + 1)
        vrdState := .done }
      ⟨.ok, BitVec.ofNat 64 (withGroup s.vrdAcc.toNat b s.vrdCnt.toNat), 0, BitVec.ofNat 4 (s.vrdCnt.toNat + 1)⟩)) ∧
  (∀ (b : Byte) s, s.vrdState = .active → s.vrdCnt.toNat = 8 → 0x80 ≤ b.toNat →
    exec (.vrdByte b) s = .next (failed
      { s with
        vrdAcc := BitVec.ofNat 63 (withGroup s.vrdAcc.toNat b 8)
        vrdCnt := 9
        vrdState := .error }
      .varintTooLong)) ∧
  (∀ (b : Byte) s, s.vrdState = .active → s.vrdCnt.toNat < 8 → 0x80 ≤ b.toNat →
    exec (.vrdByte b) s = .next (answered
      { s with
        vrdAcc := BitVec.ofNat 63 (withGroup s.vrdAcc.toNat b s.vrdCnt.toNat)
        vrdCnt := BitVec.ofNat 4 (s.vrdCnt.toNat + 1) }
      ⟨.more, 0, 0, BitVec.ofNat 4 (s.vrdCnt.toNat + 1)⟩)) ∧
  (∀ (b : Byte) s, s.vrdState ≠ .active → exec (.vrdByte b) s = .next (failed s .sequenceError)) ∧
  ByteEncoding 0x31#8 .vrdByte ∧
  AssemblesTo "vrd.byte 0xAC" 0xAC31#16 0#64

/-- 40_varint.md R95, VRD.EOF: always an error, Truncated in ACTIVE and SequenceError elsewhere. -/
def Obligations.VrdEofTruncatesOrFails : Prop :=
  (∀ s, s.vrdState = .active → exec .vrdEof s = .next (failed { s with vrdState := .error } .truncated)) ∧
  (∀ s, s.vrdState ≠ .active → exec .vrdEof s = .next (failed s .sequenceError)) ∧
  PlainEncoding 0x32#8 (fun _ => .vrdEof) ∧
  AssemblesTo "vrd.eof" 0x0032#16 0#64

/-- 40_varint.md R96, VRD.GET. -/
def Obligations.VrdGetRespondsTheValue : Prop :=
  (∀ s, s.vrdState = .done → exec .vrdGet s = .next (answered s ⟨.ok, BitVec.ofNat 64 s.vrdAcc.toNat, 0, s.vrdCnt⟩)) ∧
  (∀ s, s.vrdState ≠ .done → exec .vrdGet s = .next (failed s .sequenceError)) ∧
  PlainEncoding 0x33#8 (fun _ => .vrdGet) ∧
  AssemblesTo "vrd.get" 0x0033#16 0#64

/-- 40_varint.md R91: the reader protocol computes `rd` (R90) of any byte source, from any state. It consumes exactly the
bytes `rd` does; VRD.EOF after the end of the source gives Truncated. `VRD_CNT` is then 9 after VarintTooLong and the number of
bytes consumed after Truncated (60_exceptions.md R167). -/
def Obligations.ReaderComputesRd : Prop :=
  ∀ (source : List Byte) (s : State), ∃ s₀, exec .vrdStart s = .next s₀ ∧
    (∀ v n, rd source = .value v n →
      ∃ t, readBytes source s₀ = some (t, source.drop n) ∧ t.flight = some ⟨.ok, BitVec.ofNat 64 v, 0, BitVec.ofNat 4 n⟩ ∧
        t.vrdState = .done ∧ v < 2 ^ 63 ∧ 1 ≤ n ∧ n ≤ 9) ∧
    (rd source = .tooLong →
      ∃ t, readBytes source s₀ = some (t, source.drop 9) ∧ t.flight = some (bare (.error .varintTooLong)) ∧
        t.vrdState = .error ∧ t.vrdCnt = 9) ∧
    (rd source = .truncated →
      ∃ t u, readBytes source s₀ = some (t, []) ∧ t.vrdState = .active ∧ t.vrdCnt.toNat = source.length ∧
        exec .vrdEof t = .next u ∧ u.flight = some (bare (.error .truncated)) ∧ u.vrdState = .error ∧
        u.vrdCnt = t.vrdCnt)

/-- The transitions of 40_varint.md R91: `VRD_STATE` changes only by VRD.START, and from ACTIVE by VRD.BYTE and VRD.EOF,
to the states of the table. -/
def Obligations.ReaderStateMovesOnlyAsTabled : Prop :=
  ∀ (i : Instr) (s t : State), exec i s = .next t → t.vrdState ≠ s.vrdState →
    (i = .vrdStart ∧ t.vrdState = .active) ∨
    (∃ b, i = .vrdByte b ∧ s.vrdState = .active ∧
      ((b.toNat < 0x80 ∧ t.vrdState = .done) ∨ (0x80 ≤ b.toNat ∧ s.vrdCnt.toNat = 8 ∧ t.vrdState = .error))) ∨
    (i = .vrdEof ∧ s.vrdState = .active ∧ t.vrdState = .error)

/-- The source's property `decode(encode(v)) == v` at the machine (40_varint.md R89, R97; 95_test_vectors.md V4): the bytes
VENC answers, given to the buffer decoder or to the stream reader, give back the value; the reader takes no byte after the last
one. On other bytes the two can disagree. -/
def Obligations.EncodedValuesReadBack : Prop :=
  (∀ (v : Data) (s : State), v.toNat < 2 ^ 63 →
    ∃ t r, exec (.venc v) s = .next t ∧ t.flight = some r ∧
      (∃ u, execAll (vdecBuf (responseBytes r)) t = .next u ∧ u.flight = some ⟨.ok, v, 0, r.len⟩) ∧
      (∃ u, execAll (vrdBytes (responseBytes r)) t = .next u ∧ u.flight = some ⟨.ok, v, 0, r.len⟩) ∧
      (∀ rest : List Byte, ∃ s₀ u, exec .vrdStart t = .next s₀ ∧
        readBytes (responseBytes r ++ rest) s₀ = some (u, rest) ∧ u.flight = some ⟨.ok, v, 0, r.len⟩)) ∧
  dec [0x05#8, 0x03#8] = some 0x185 ∧ rd [0x05#8, 0x03#8] = .value 5 1

/-! ### Control commands -/

/-- 43_control.md R150, NOP: no register is written. -/
def Obligations.NopRespondsOkAndWritesNothing : Prop :=
  (∀ s, exec .nop s = .next (answered s ⟨.ok, 0, 0, 0⟩)) ∧ PlainEncoding 0x00#8 (fun _ => .nop) ∧
  AssemblesTo "nop" 0x0000#16 0#64

/-- 43_control.md R151 and 10_state.md R35, STAT.GET: the status view, as the number its layout gives; no register is
written. -/
def Obligations.StatGetRespondsTheView : Prop :=
  (∀ s, exec .statGet s = .next (answered s
    ⟨.ok, BitVec.ofNat 64 (s.vdecStop.toNat * 2 ^ 14 + s.vdecCnt.toNat * 2 ^ 10 + s.vrdCnt.toNat * 2 ^ 6
      + s.vrdState.code.toNat * 2 ^ 4 + s.sticky.toNat), 0, 0⟩)) ∧
  PlainEncoding 0x40#8 (fun _ => .statGet) ∧
  AssemblesTo "stat.get" 0x0040#16 0#64

/-- 43_control.md R152, STAT.CLR: only `STICKY` is cleared. -/
def Obligations.StatClrClearsOnlySticky : Prop :=
  (∀ s, exec .statClr s = .next (answered { s with sticky := 0 } (bare .ok))) ∧
  PlainEncoding 0x41#8 (fun _ => .statClr) ∧
  AssemblesTo "stat.clr" 0x0041#16 0#64

/-! ### Errors -/

/-- 60_exceptions.md R160 and R165: the codes, bit 3 set exactly on the errors, and every status raised by exactly the
commands and in exactly the cases of the table, with IllegalCommand before SequenceError before the operation's own
error. The MORE clause has a count other than 8 where R160 has fewer than 9 bytes read: in reachable states the two agree
(10_state.md R33); for ACTIVE counts 9 to 15, which no run reaches, it is the model's choice (notes/assumptions/12.md). -/
def Obligations.StatusesAreRaisedExactlyAsTabled : Prop :=
  ([Status.ok, .more, .error .varintTooLong, .error .varintTooLarge, .error .truncated, .error .illegalCommand,
    .error .sequenceError].map Status.code = [0x0#4, 0x1#4, 0x8#4, 0x9#4, 0xA#4, 0xB#4, 0xC#4]) ∧
  (∀ st : Status, st.code.getLsbD 3 = true ↔ ∃ e, st = .error e) ∧
  ∀ (c : Command) (s : State), ∃ t r, runCommand c s = .next t ∧ t.flight = some r ∧
    (r.status = .error .illegalCommand ↔ IllegalWord c.word) ∧
    (r.status = .error .sequenceError ↔
      ((∃ b, decode c.word c.data = .ok (.vrdByte b)) ∧ s.vrdState ≠ .active) ∨
      (decode c.word c.data = .ok .vrdEof ∧ s.vrdState ≠ .active) ∨
      (decode c.word c.data = .ok .vrdGet ∧ s.vrdState ≠ .done)) ∧
    (r.status = .error .varintTooLarge ↔ ∃ v, decode c.word c.data = .ok (.venc v) ∧ 2 ^ 63 ≤ v.toNat) ∧
    (r.status = .error .varintTooLong ↔
      (decode c.word c.data = .ok .vdecFin ∧ 9 < s.vdecCnt.toNat) ∨
      ∃ b, decode c.word c.data = .ok (.vrdByte b) ∧ s.vrdState = .active ∧ s.vrdCnt.toNat = 8 ∧ 0x80 ≤ b.toNat) ∧
    (r.status = .error .truncated ↔ decode c.word c.data = .ok .vrdEof ∧ s.vrdState = .active) ∧
    (r.status = .more ↔
      ∃ b, decode c.word c.data = .ok (.vrdByte b) ∧ s.vrdState = .active ∧ s.vrdCnt.toNat ≠ 8 ∧ 0x80 ≤ b.toNat)

/-- 60_exceptions.md R162: a command that ends in an error writes `STICKY` only where it is zero; one that ends in OK or
MORE writes it only as STAT.CLR; and only reset and STAT.CLR take a nonzero `STICKY` to another value, zero. -/
def Obligations.StickyKeepsTheFirstError : Prop :=
  (∀ (c : Command) (s t : State) (r : Response), runCommand c s = .next t → t.flight = some r →
    (∀ e, r.status = .error e → t.sticky = if s.sticky = 0x0#4 then e.code else s.sticky) ∧
    ((r.status = .ok ∨ r.status = .more) → decode c.word c.data ≠ .ok .statClr → t.sticky = s.sticky)) ∧
  ∀ s t : State, step s = .next t → s.sticky ≠ 0x0#4 → t.sticky ≠ s.sticky →
    t.sticky = 0x0#4 ∧ (s.drives.rst = true ∨
      (s.accepts s.drives = true ∧ decode s.drives.cmd.word s.drives.cmd.data = .ok .statClr))

/-- 60_exceptions.md R163: what a failing command changes, exactly. -/
def Obligations.FailingCommandChangesOnlyTheListed : Prop :=
  ∀ (c : Command) (s t : State) (r : Response) (e : ErrorKind),
    runCommand c s = .next t → t.flight = some r → r.status = .error e →
      r = bare (.error e) ∧
      ((t = failed s e ∧ (e = .illegalCommand ∨ e = .sequenceError ∨ e = .varintTooLarge ∨
          (e = .varintTooLong ∧ decode c.word c.data = .ok .vdecFin))) ∨
       (e = .varintTooLong ∧ ∃ b, decode c.word c.data = .ok (.vrdByte b) ∧
          t = failed { s with
            vrdAcc := BitVec.ofNat 63 (withGroup s.vrdAcc.toNat b 8), vrdCnt := 9, vrdState := .error } e) ∨
       (e = .truncated ∧ decode c.word c.data = .ok .vrdEof ∧ t = failed { s with vrdState := .error } e))

/-- 60_exceptions.md R164: an error does not stop the block. Whatever `STICKY` and every other register hold, every
instruction completes, and a ready block accepts and executes the next command, legal or not. When a block is ready is
notes/assumptions/5.md. -/
def Obligations.ErrorDoesNotStopTheBlock : Prop :=
  (∀ (i : Instr) (s : State), ∃ t r, exec i s = .next t ∧ t.flight = some r) ∧
  ∀ (s : State) (c : Command) (rspReady : Bool) (rest : List PortIn),
    s.cmdReady = true → (s.held = none ∨ s.held = some c) → s.inputs = ⟨false, true, c, rspReady⟩ :: rest →
      ∃ t r, step s = .next t ∧ t.flight = some r ∧ t.inputs = rest ∧ t.responses = s.responses ∧ t.held = none

/-! ### Whole-machine rules -/

/-- The write column of the access table, 10_state.md R34: a command changes no register it does not write there, but for
`STICKY` where it ends in an error; and nothing of the host's side. -/
def Obligations.RegistersWrittenAreAsTabled : Prop :=
  ∀ (i : Instr) (s t : State) (r : Response), exec i s = .next t → t.flight = some r →
    (∀ g, g ∉ writes i → (g = .sticky → ∀ e, r.status ≠ .error e) → t.reg g = s.reg g) ∧
    t.held = s.held ∧ t.inputs = s.inputs ∧ t.responses = s.responses

/-- The read column of the access table, 10_state.md R34: the response of a command, and what it writes into its registers,
depend on no register it does not read there. -/
def Obligations.ResultDependsOnlyOnRegistersRead : Prop :=
  ∀ (i : Instr) (s s' : State), (∀ g ∈ reads i, s.reg g = s'.reg g) →
    ∃ t t', exec i s = .next t ∧ exec i s' = .next t' ∧ t.flight = t'.flight ∧ ∀ g ∈ writes i, t.reg g = t'.reg g

/-- The invariants of 10_state.md R33 hold right after reset, and no response is there to have a form. -/
def Obligations.ResetMeetsTheInvariants : Prop := RegisterInv State.reset ∧ ResponsesFormed State.reset

/-- The invariants of 10_state.md R33 are kept by every step, from every state that has them. -/
def Obligations.StepKeepsTheRegisterInvariants : Prop :=
  ∀ s t : State, RegisterInv s → step s = .next t → RegisterInv t

/-- Every step keeps the form of every response (30_encoding.md R66, R67): an error carries nothing else, MORE carries a
count of 1 to 8 alone, no length is above 9, only a 9-byte encoding has an extension byte. -/
def Obligations.StepKeepsResponsesFormed : Prop :=
  ∀ s t : State, RegisterInv s → ResponsesFormed s → step s = .next t → ResponsesFormed t

/-- 20_memory.md R50: repeating a command of the first list leaves every register as one issue left it, and a second
VRD.EOF fails with SequenceError. -/
def Obligations.RepeatedCommandsLeaveTheState : Prop :=
  (∀ (i : Instr) (s t : State),
    (i ∈ [Instr.nop, .crc32Get, .crc64Get, .vdecFin, .vrdGet, .statGet, .vdecClr, .vrdStart, .statClr] ∨
      (∃ x, i = .crc32Seed x) ∨ ∃ x, i = .crc64Seed x) →
    exec i s = .next t → ∃ u, exec i t = .next u ∧ ∀ g, u.reg g = t.reg g) ∧
  ∀ s t : State, exec .vrdEof s = .next t →
    ∃ u, exec .vrdEof t = .next u ∧ u.flight = some (bare (.error .sequenceError))

/-! ### The assembler -/

/-- 30_encoding.md R68, R69: the assembled form of every command reads back as the command, and the examples of the two
rules assemble as printed. -/
def Obligations.AssembledFormReadsBack : Prop :=
  (∀ c : Command, assembleRaw (assembledForm c) = some c) ∧
  (assembleLine "crc32.upd 4, 0x74736574".toList).map (List.map assembledForm) = some ["0402:0000000074736574".toList] ∧
  assembleLine "crc32.bytes \"abc\"".toList = assembleLine "crc32.upd 3, 0x636261".toList ∧
  assembleLine "crc32.init".toList = assembleLine "CRC32.SEED 0".toList ∧
  assembleLine "crc32.upd 9, 0".toList = none

/-! ### The transaction level -/

/-- 10_state.md R32, 20_memory.md R44: a command is one atomic step whose parameter is the command, whose state is the
registers and whose output is the response. On the clocked machine an accepted command is exactly that step: nothing of the
interface (channel, held command, inputs, responses) goes into it. VENC keeps nothing of what it encodes. -/
def Obligations.CommandIsItsTransaction : Prop :=
  (∀ (c : Command) (s : State), runCommand c s = .next
    { s with
      toRegisters := (transaction c s.toRegisters).regs
      channel := .inFlight 0 (transaction c s.toRegisters).rsp
      draws := s.draws + 1 }) ∧
  ∀ (v : Data) (g : Registers), v.toNat < 2 ^ 63 → (effect (.venc v) g).regs = g

/-- The observable result of a run (70_reset_and_hazards.md R187; 10_state.md R32): the clocked run of a list of commands
leaves the registers, and adds to the host's list exactly the responses, that the transaction-level steps give, one per
command in order. At which edges that happens is the model's choice, as in HandshakeRunIsTheAtomicRun
(notes/assumptions/5.md, 6.md, 7.md, 11.md). -/
def Obligations.ClockedRunGivesTheTransactionResult : Prop :=
  ∀ (cmds : List (Command × Nat)) (s : State) (rest : List PortIn),
    s.channel = .ready → s.held = none → s.inputs = driveAll cmds ++ rest → waitsLongEnough cmds (s.draws + 1) →
      ∃ t : State, steps (driveAll cmds).length s = .next t ∧
        t.toRegisters = (runTransactions (cmds.map fun p => p.1) s.toRegisters).1 ∧
        t.responses = s.responses ++ (runTransactions (cmds.map fun p => p.1) s.toRegisters).2
end

