-- ==== Sys2Proof/Laws/Decode.lean ====
section
/-! SUPPORT. Laws of the command word's fields, and what the decoder does on each opcode. -/

namespace Sys2Proof

/-- The number of a command word built from its fields. -/
theorem append_toNat (imm op : Byte) : (imm ++ op : CmdWord).toNat = imm.toNat * 256 + op.toNat := by
  have h : (imm ++ op : BitVec (8 + 8)).toNat = imm.toNat <<< 8 ||| op.toNat := BitVec.toNat_append ..
  rw [← Nat.shiftLeft_add_eq_or_of_lt op.isLt, Nat.shiftLeft_eq] at h
  exact h

/-- The opcode field as a number. -/
theorem opField_toNat (w : CmdWord) : (opField w).toNat = w.toNat % 256 := by
  simp [opField]

/-- The immediate field as a number. -/
theorem immField_toNat (w : CmdWord) : (immField w).toNat = w.toNat / 256 := by
  have := w.isLt
  simp [immField, Nat.shiftRight_eq_div_pow]
  omega

@[simp] theorem opField_append (imm op : Byte) : opField (imm ++ op : CmdWord) = op := by
  apply BitVec.eq_of_toNat_eq
  have := op.isLt
  rw [opField_toNat, append_toNat]
  omega

@[simp] theorem immField_append (imm op : Byte) : immField (imm ++ op : CmdWord) = imm := by
  apply BitVec.eq_of_toNat_eq
  have := op.isLt
  rw [immField_toNat, append_toNat]
  omega

/-- A command word is its two fields (30_encoding.md R61). -/
theorem append_fields (w : CmdWord) : (immField w ++ opField w : CmdWord) = w :=
  BitVec.extractLsb'_append_extractLsb'

@[simp] theorem decode_append (imm op : Byte) (d : Data) : decode (imm ++ op) d = decodeFields op imm d := by
  simp [decode]

@[simp] theorem decode_cmdWord (imm op : Byte) (d : Data) : decode (cmdWord imm op) d = decodeFields op imm d :=
  decode_append imm op d

section
variable (imm : Byte) (d : Data) (i : Instr)

@[simp] theorem decodeFields_nop : decodeFields 0x00#8 imm d = withoutImm imm .nop := rfl
@[simp] theorem decodeFields_crc32Seed : decodeFields 0x01#8 imm d = withoutImm imm (.crc32Seed (d.setWidth 32)) := rfl
@[simp] theorem decodeFields_crc32Upd : decodeFields 0x02#8 imm d = withByteCount imm (.crc32Upd imm d) := rfl
@[simp] theorem decodeFields_crc32Get : decodeFields 0x03#8 imm d = withoutImm imm .crc32Get := rfl
@[simp] theorem decodeFields_crc64Seed : decodeFields 0x04#8 imm d = withoutImm imm (.crc64Seed d) := rfl
@[simp] theorem decodeFields_crc64Upd : decodeFields 0x05#8 imm d = withByteCount imm (.crc64Upd imm d) := rfl
@[simp] theorem decodeFields_crc64Get : decodeFields 0x06#8 imm d = withoutImm imm .crc64Get := rfl
@[simp] theorem decodeFields_venc : decodeFields 0x10#8 imm d = withoutImm imm (.venc d) := rfl
@[simp] theorem decodeFields_vdecClr : decodeFields 0x20#8 imm d = withoutImm imm .vdecClr := rfl
@[simp] theorem decodeFields_vdecPush : decodeFields 0x21#8 imm d = .ok (.vdecPush imm) := rfl
@[simp] theorem decodeFields_vdecFin : decodeFields 0x22#8 imm d = withoutImm imm .vdecFin := rfl
@[simp] theorem decodeFields_vrdStart : decodeFields 0x30#8 imm d = withoutImm imm .vrdStart := rfl
@[simp] theorem decodeFields_vrdByte : decodeFields 0x31#8 imm d = .ok (.vrdByte imm) := rfl
@[simp] theorem decodeFields_vrdEof : decodeFields 0x32#8 imm d = withoutImm imm .vrdEof := rfl
@[simp] theorem decodeFields_vrdGet : decodeFields 0x33#8 imm d = withoutImm imm .vrdGet := rfl
@[simp] theorem decodeFields_statGet : decodeFields 0x40#8 imm d = withoutImm imm .statGet := rfl
@[simp] theorem decodeFields_statClr : decodeFields 0x41#8 imm d = withoutImm imm .statClr := rfl

/-- The 17 opcodes (30_encoding.md R64). -/
def opcodes : List Byte :=
  [0x00#8, 0x01#8, 0x02#8, 0x03#8, 0x04#8, 0x05#8, 0x06#8, 0x10#8, 0x20#8, 0x21#8, 0x22#8, 0x30#8, 0x31#8, 0x32#8,
   0x33#8, 0x40#8, 0x41#8]

theorem decodeFields_reserved {op : Byte} (h : op ∉ opcodes) :
    decodeFields op imm d = .error .reservedOpcode := by
  simp only [opcodes, List.mem_cons, List.not_mem_nil, or_false, not_or] at h
  simp only [decodeFields, h, if_false]

@[simp] theorem withoutImm_zero : withoutImm 0#8 i = .ok i := rfl

theorem withoutImm_of_ne (h : imm ≠ 0#8) : withoutImm imm i = .error .immediateNotZero := if_neg h

theorem withByteCount_of_le (h : imm.toNat ≤ 8) : withByteCount imm i = .ok i := by
  simp [withByteCount, byteCountLegal, h]

theorem withByteCount_of_gt (h : 8 < imm.toNat) : withByteCount imm i = .error .byteCountAbove8 := by
  simp [withByteCount, byteCountLegal, h]

end

end Sys2Proof
end

