-- ==== Sys2Proof/Laws/Accept.lean ====
section
/-! SUPPORT. Running a command word: what the shared operations `respond` and `fail` are in the terms of the statements, and
how a command word with given fields runs. -/

namespace Sys2Proof.Machine

theorem commit_respond (s : State) (g : Registers) (r : Response) :
    s.commit (g.respond r) = .next (answered { s with toRegisters := g } r) := rfl

theorem commit_fail (s : State) (g : Registers) (e : ErrorKind) :
    s.commit (g.fail e) = .next (failed { s with toRegisters := g } e) := rfl

theorem execIllegal_eq (s : State) : execIllegal s = .next (failed s .illegalCommand) := rfl

theorem runCommand_of_ok {c : Command} {i : Instr} (s : State) (h : decode c.word c.data = .ok i) :
    runCommand c s = exec i s := by
  simp [runCommand, h]

theorem runCommand_of_error {c : Command} {e : DecodeError} (s : State) (h : decode c.word c.data = .error e) :
    runCommand c s = .next (failed s .illegalCommand) := by
  simp [runCommand, h, execIllegal_eq]

theorem plainEncoding_of {op : Byte} {i : Data → Instr}
    (h : ∀ imm d, decodeFields op imm d = withoutImm imm (i d)) : PlainEncoding op i := by
  refine ⟨fun d s => runCommand_of_ok s ?_, fun imm d s hne => runCommand_of_error (e := .immediateNotZero) s ?_⟩
  · rw [decode_append, h, withoutImm_zero]
  · rw [decode_append, h, withoutImm_of_ne _ _ hne]

theorem countEncoding_of {op : Byte} {i : Byte → Data → Instr}
    (h : ∀ imm d, decodeFields op imm d = withByteCount imm (i imm d)) : CountEncoding op i := by
  refine ⟨fun k d s hk => runCommand_of_ok s ?_, fun k d s hk => runCommand_of_error (e := .byteCountAbove8) s ?_⟩
  · rw [decode_append, h, withByteCount_of_le _ _ hk]
  · rw [decode_append, h, withByteCount_of_gt _ _ hk]

theorem byteEncoding_of {op : Byte} {i : Byte → Instr}
    (h : ∀ imm d, decodeFields op imm d = .ok (i imm)) : ByteEncoding op i := by
  intro b d s
  refine runCommand_of_ok s ?_
  rw [decode_append, h]

end Sys2Proof.Machine
end

