-- ==== Sys2Proof/Laws/Crc.lean ====
section
/-! SUPPORT. Laws of the CRC shift register: it is linear, and shifting out zero bits is a plain shift. -/

namespace Sys2Proof.Machine

variable {n : Nat}

theorem crcShift_xor (p a b : BitVec n) : crcShift p (a ^^^ b) = crcShift p a ^^^ crcShift p b := by
  simp only [crcShift, BitVec.getLsbD_xor, BitVec.ushiftRight_xor_distrib]
  cases a.getLsbD 0 <;> cases b.getLsbD 0 <;> simp
  · rw [BitVec.xor_assoc]
  · rw [BitVec.xor_assoc, BitVec.xor_assoc, BitVec.xor_comm p (b >>> 1)]
  · rw [← BitVec.xor_assoc, BitVec.xor_assoc (a >>> 1), BitVec.xor_comm p, BitVec.xor_assoc, BitVec.xor_assoc,
      BitVec.xor_self, BitVec.xor_zero]

theorem crcShifts_xor (p : BitVec n) (k : Nat) (a b : BitVec n) :
    crcShifts p k (a ^^^ b) = crcShifts p k a ^^^ crcShifts p k b := by
  induction k generalizing a b with
  | zero => rfl
  | succ k ih => rw [crcShifts, crcShift_xor, ih, crcShifts, crcShifts]

theorem crcShifts_of_low_zero (p : BitVec n) (k : Nat) (a : BitVec n) (h : ∀ i < k, a.getLsbD i = false) :
    crcShifts p k a = a >>> k := by
  induction k generalizing a with
  | zero => simp [crcShifts]
  | succ k ih =>
    have h0 : crcShift p a = a >>> 1 := by simp [crcShift, h 0 (by omega)]
    rw [crcShifts, h0, ih, ← BitVec.shiftRight_add, Nat.add_comm]
    intro i hi
    rw [BitVec.getLsbD_ushiftRight]
    exact h _ (by omega)

/-- A register is its low byte and the rest. -/
theorem low_byte_xor_rest (x : BitVec n) : x = (x.setWidth 8).setWidth n ^^^ ((x >>> 8) <<< 8) := by
  apply BitVec.eq_of_getLsbD_eq
  intro i hi
  by_cases h8 : i < 8
  · simp [hi, h8]
  · have : 8 + (i - 8) = i := by omega
    simp [hi, h8, this]

theorem crcBitwise_nil (p s : BitVec n) : crcBitwise p s [] = s := by simp [crcBitwise]

theorem crcBitwise_append (p s : BitVec n) (a b : List Byte) :
    crcBitwise p s (a ++ b) = crcBitwise p (crcBitwise p s a) b := by
  simp [crcBitwise]

end Sys2Proof.Machine
end

