-- ==== Sys2Proof/Laws/State.lean ====
section
/-! SUPPORT. One lemma per field per update: what each named operation on the registers, and each edge of the clocked
machine, leaves in each field. -/

namespace Sys2Proof.Machine

section
variable (g : Registers) (v : BitVec 32)

@[simp] theorem Registers.setCrc32Acc_crc32Acc : (g.setCrc32Acc v).crc32Acc = v := rfl
@[simp] theorem Registers.setCrc32Acc_crc64Acc : (g.setCrc32Acc v).crc64Acc = g.crc64Acc := rfl
@[simp] theorem Registers.setCrc32Acc_vdecAcc : (g.setCrc32Acc v).vdecAcc = g.vdecAcc := rfl
@[simp] theorem Registers.setCrc32Acc_vdecCnt : (g.setCrc32Acc v).vdecCnt = g.vdecCnt := rfl
@[simp] theorem Registers.setCrc32Acc_vdecStop : (g.setCrc32Acc v).vdecStop = g.vdecStop := rfl
@[simp] theorem Registers.setCrc32Acc_vrdAcc : (g.setCrc32Acc v).vrdAcc = g.vrdAcc := rfl
@[simp] theorem Registers.setCrc32Acc_vrdCnt : (g.setCrc32Acc v).vrdCnt = g.vrdCnt := rfl
@[simp] theorem Registers.setCrc32Acc_vrdState : (g.setCrc32Acc v).vrdState = g.vrdState := rfl
@[simp] theorem Registers.setCrc32Acc_sticky : (g.setCrc32Acc v).sticky = g.sticky := rfl

end

section
variable (g : Registers) (v : BitVec 64)

@[simp] theorem Registers.setCrc64Acc_crc32Acc : (g.setCrc64Acc v).crc32Acc = g.crc32Acc := rfl
@[simp] theorem Registers.setCrc64Acc_crc64Acc : (g.setCrc64Acc v).crc64Acc = v := rfl
@[simp] theorem Registers.setCrc64Acc_vdecAcc : (g.setCrc64Acc v).vdecAcc = g.vdecAcc := rfl
@[simp] theorem Registers.setCrc64Acc_vdecCnt : (g.setCrc64Acc v).vdecCnt = g.vdecCnt := rfl
@[simp] theorem Registers.setCrc64Acc_vdecStop : (g.setCrc64Acc v).vdecStop = g.vdecStop := rfl
@[simp] theorem Registers.setCrc64Acc_vrdAcc : (g.setCrc64Acc v).vrdAcc = g.vrdAcc := rfl
@[simp] theorem Registers.setCrc64Acc_vrdCnt : (g.setCrc64Acc v).vrdCnt = g.vrdCnt := rfl
@[simp] theorem Registers.setCrc64Acc_vrdState : (g.setCrc64Acc v).vrdState = g.vrdState := rfl
@[simp] theorem Registers.setCrc64Acc_sticky : (g.setCrc64Acc v).sticky = g.sticky := rfl

end

section
variable (g : Registers) (v : VarintAcc)

@[simp] theorem Registers.setVdecAcc_crc32Acc : (g.setVdecAcc v).crc32Acc = g.crc32Acc := rfl
@[simp] theorem Registers.setVdecAcc_crc64Acc : (g.setVdecAcc v).crc64Acc = g.crc64Acc := rfl
@[simp] theorem Registers.setVdecAcc_vdecAcc : (g.setVdecAcc v).vdecAcc = v := rfl
@[simp] theorem Registers.setVdecAcc_vdecCnt : (g.setVdecAcc v).vdecCnt = g.vdecCnt := rfl
@[simp] theorem Registers.setVdecAcc_vdecStop : (g.setVdecAcc v).vdecStop = g.vdecStop := rfl
@[simp] theorem Registers.setVdecAcc_vrdAcc : (g.setVdecAcc v).vrdAcc = g.vrdAcc := rfl
@[simp] theorem Registers.setVdecAcc_vrdCnt : (g.setVdecAcc v).vrdCnt = g.vrdCnt := rfl
@[simp] theorem Registers.setVdecAcc_vrdState : (g.setVdecAcc v).vrdState = g.vrdState := rfl
@[simp] theorem Registers.setVdecAcc_sticky : (g.setVdecAcc v).sticky = g.sticky := rfl

end

section
variable (g : Registers) (v : Nibble)

@[simp] theorem Registers.setVdecCnt_crc32Acc : (g.setVdecCnt v).crc32Acc = g.crc32Acc := rfl
@[simp] theorem Registers.setVdecCnt_crc64Acc : (g.setVdecCnt v).crc64Acc = g.crc64Acc := rfl
@[simp] theorem Registers.setVdecCnt_vdecAcc : (g.setVdecCnt v).vdecAcc = g.vdecAcc := rfl
@[simp] theorem Registers.setVdecCnt_vdecCnt : (g.setVdecCnt v).vdecCnt = v := rfl
@[simp] theorem Registers.setVdecCnt_vdecStop : (g.setVdecCnt v).vdecStop = g.vdecStop := rfl
@[simp] theorem Registers.setVdecCnt_vrdAcc : (g.setVdecCnt v).vrdAcc = g.vrdAcc := rfl
@[simp] theorem Registers.setVdecCnt_vrdCnt : (g.setVdecCnt v).vrdCnt = g.vrdCnt := rfl
@[simp] theorem Registers.setVdecCnt_vrdState : (g.setVdecCnt v).vrdState = g.vrdState := rfl
@[simp] theorem Registers.setVdecCnt_sticky : (g.setVdecCnt v).sticky = g.sticky := rfl

end

section
variable (g : Registers) (v : Bool)

@[simp] theorem Registers.setVdecStop_crc32Acc : (g.setVdecStop v).crc32Acc = g.crc32Acc := rfl
@[simp] theorem Registers.setVdecStop_crc64Acc : (g.setVdecStop v).crc64Acc = g.crc64Acc := rfl
@[simp] theorem Registers.setVdecStop_vdecAcc : (g.setVdecStop v).vdecAcc = g.vdecAcc := rfl
@[simp] theorem Registers.setVdecStop_vdecCnt : (g.setVdecStop v).vdecCnt = g.vdecCnt := rfl
@[simp] theorem Registers.setVdecStop_vdecStop : (g.setVdecStop v).vdecStop = v := rfl
@[simp] theorem Registers.setVdecStop_vrdAcc : (g.setVdecStop v).vrdAcc = g.vrdAcc := rfl
@[simp] theorem Registers.setVdecStop_vrdCnt : (g.setVdecStop v).vrdCnt = g.vrdCnt := rfl
@[simp] theorem Registers.setVdecStop_vrdState : (g.setVdecStop v).vrdState = g.vrdState := rfl
@[simp] theorem Registers.setVdecStop_sticky : (g.setVdecStop v).sticky = g.sticky := rfl

end

section
variable (g : Registers) (v : VarintAcc)

@[simp] theorem Registers.setVrdAcc_crc32Acc : (g.setVrdAcc v).crc32Acc = g.crc32Acc := rfl
@[simp] theorem Registers.setVrdAcc_crc64Acc : (g.setVrdAcc v).crc64Acc = g.crc64Acc := rfl
@[simp] theorem Registers.setVrdAcc_vdecAcc : (g.setVrdAcc v).vdecAcc = g.vdecAcc := rfl
@[simp] theorem Registers.setVrdAcc_vdecCnt : (g.setVrdAcc v).vdecCnt = g.vdecCnt := rfl
@[simp] theorem Registers.setVrdAcc_vdecStop : (g.setVrdAcc v).vdecStop = g.vdecStop := rfl
@[simp] theorem Registers.setVrdAcc_vrdAcc : (g.setVrdAcc v).vrdAcc = v := rfl
@[simp] theorem Registers.setVrdAcc_vrdCnt : (g.setVrdAcc v).vrdCnt = g.vrdCnt := rfl
@[simp] theorem Registers.setVrdAcc_vrdState : (g.setVrdAcc v).vrdState = g.vrdState := rfl
@[simp] theorem Registers.setVrdAcc_sticky : (g.setVrdAcc v).sticky = g.sticky := rfl

end

section
variable (g : Registers) (v : Nibble)

@[simp] theorem Registers.setVrdCnt_crc32Acc : (g.setVrdCnt v).crc32Acc = g.crc32Acc := rfl
@[simp] theorem Registers.setVrdCnt_crc64Acc : (g.setVrdCnt v).crc64Acc = g.crc64Acc := rfl
@[simp] theorem Registers.setVrdCnt_vdecAcc : (g.setVrdCnt v).vdecAcc = g.vdecAcc := rfl
@[simp] theorem Registers.setVrdCnt_vdecCnt : (g.setVrdCnt v).vdecCnt = g.vdecCnt := rfl
@[simp] theorem Registers.setVrdCnt_vdecStop : (g.setVrdCnt v).vdecStop = g.vdecStop := rfl
@[simp] theorem Registers.setVrdCnt_vrdAcc : (g.setVrdCnt v).vrdAcc = g.vrdAcc := rfl
@[simp] theorem Registers.setVrdCnt_vrdCnt : (g.setVrdCnt v).vrdCnt = v := rfl
@[simp] theorem Registers.setVrdCnt_vrdState : (g.setVrdCnt v).vrdState = g.vrdState := rfl
@[simp] theorem Registers.setVrdCnt_sticky : (g.setVrdCnt v).sticky = g.sticky := rfl

end

section
variable (g : Registers) (v : VrdState)

@[simp] theorem Registers.setVrdState_crc32Acc : (g.setVrdState v).crc32Acc = g.crc32Acc := rfl
@[simp] theorem Registers.setVrdState_crc64Acc : (g.setVrdState v).crc64Acc = g.crc64Acc := rfl
@[simp] theorem Registers.setVrdState_vdecAcc : (g.setVrdState v).vdecAcc = g.vdecAcc := rfl
@[simp] theorem Registers.setVrdState_vdecCnt : (g.setVrdState v).vdecCnt = g.vdecCnt := rfl
@[simp] theorem Registers.setVrdState_vdecStop : (g.setVrdState v).vdecStop = g.vdecStop := rfl
@[simp] theorem Registers.setVrdState_vrdAcc : (g.setVrdState v).vrdAcc = g.vrdAcc := rfl
@[simp] theorem Registers.setVrdState_vrdCnt : (g.setVrdState v).vrdCnt = g.vrdCnt := rfl
@[simp] theorem Registers.setVrdState_vrdState : (g.setVrdState v).vrdState = v := rfl
@[simp] theorem Registers.setVrdState_sticky : (g.setVrdState v).sticky = g.sticky := rfl

end

section
variable (g : Registers) (v : Nibble)

@[simp] theorem Registers.setSticky_crc32Acc : (g.setSticky v).crc32Acc = g.crc32Acc := rfl
@[simp] theorem Registers.setSticky_crc64Acc : (g.setSticky v).crc64Acc = g.crc64Acc := rfl
@[simp] theorem Registers.setSticky_vdecAcc : (g.setSticky v).vdecAcc = g.vdecAcc := rfl
@[simp] theorem Registers.setSticky_vdecCnt : (g.setSticky v).vdecCnt = g.vdecCnt := rfl
@[simp] theorem Registers.setSticky_vdecStop : (g.setSticky v).vdecStop = g.vdecStop := rfl
@[simp] theorem Registers.setSticky_vrdAcc : (g.setSticky v).vrdAcc = g.vrdAcc := rfl
@[simp] theorem Registers.setSticky_vrdCnt : (g.setSticky v).vrdCnt = g.vrdCnt := rfl
@[simp] theorem Registers.setSticky_vrdState : (g.setSticky v).vrdState = g.vrdState := rfl
@[simp] theorem Registers.setSticky_sticky : (g.setSticky v).sticky = v := rfl

end

section
variable (g : Registers) (r : Response) (e : ErrorKind)

@[simp] theorem Registers.respond_regs : (g.respond r).regs = g := rfl
@[simp] theorem Registers.respond_rsp : (g.respond r).rsp = r := rfl
@[simp] theorem Registers.fail_regs : (g.fail e).regs = g.setSticky (stickyUpdate g.sticky e) := rfl
@[simp] theorem Registers.fail_rsp : (g.fail e).rsp = { status := .error e } := rfl

end

section
variable (s : State) (h : Option Command)

@[simp] theorem State.consume_toRegisters : (s.consume h).toRegisters = s.toRegisters := rfl
@[simp] theorem State.consume_channel : (s.consume h).channel = s.channel := rfl
@[simp] theorem State.consume_held : (s.consume h).held = h := rfl
@[simp] theorem State.consume_inputs : (s.consume h).inputs = s.inputs.tail := rfl
@[simp] theorem State.consume_responses : (s.consume h).responses = s.responses := rfl
@[simp] theorem State.consume_draws : (s.consume h).draws = s.draws := rfl

end

section
variable (s : State) (p : PortIn)

@[simp] theorem State.resetEdge_toRegisters : (s.resetEdge p).toRegisters = Registers.reset := rfl
@[simp] theorem State.resetEdge_channel : (s.resetEdge p).channel = .starting 0 := rfl
@[simp] theorem State.resetEdge_held : (s.resetEdge p).held = p.offered := rfl
@[simp] theorem State.resetEdge_inputs : (s.resetEdge p).inputs = s.inputs.tail := rfl
@[simp] theorem State.resetEdge_responses : (s.resetEdge p).responses = s.responses := rfl
@[simp] theorem State.resetEdge_draws : (s.resetEdge p).draws = s.draws + 1 := rfl

end

section
variable (s : State) (p : PortIn)

@[simp] theorem State.takeEdge_toRegisters : (s.takeEdge p).toRegisters = s.toRegisters := rfl
@[simp] theorem State.takeEdge_channel : (s.takeEdge p).channel = .ready := rfl
@[simp] theorem State.takeEdge_held : (s.takeEdge p).held = p.offered := rfl
@[simp] theorem State.takeEdge_inputs : (s.takeEdge p).inputs = s.inputs.tail := rfl
@[simp] theorem State.takeEdge_responses : (s.takeEdge p).responses = s.responses ++ s.flight.toList := rfl
@[simp] theorem State.takeEdge_draws : (s.takeEdge p).draws = s.draws := rfl

end

section
variable (s : State) (p : PortIn)

@[simp] theorem State.waitEdge_toRegisters : (s.waitEdge p).toRegisters = s.toRegisters := rfl
@[simp] theorem State.waitEdge_channel : (s.waitEdge p).channel = s.channel.wait := rfl
@[simp] theorem State.waitEdge_held : (s.waitEdge p).held = p.offered := rfl
@[simp] theorem State.waitEdge_inputs : (s.waitEdge p).inputs = s.inputs.tail := rfl
@[simp] theorem State.waitEdge_responses : (s.waitEdge p).responses = s.responses := rfl
@[simp] theorem State.waitEdge_draws : (s.waitEdge p).draws = s.draws := rfl

end

section
variable (s : State) (e : Effect)

/-- The state an accepted command leaves: its effect on the registers, its response in flight, one free value used. -/
def State.after : State := { s with toRegisters := e.regs, channel := .inFlight 0 e.rsp, draws := s.draws + 1 }

theorem State.commit_eq : s.commit e = .next (s.after e) := rfl
@[simp] theorem State.after_toRegisters : (s.after e).toRegisters = e.regs := rfl
@[simp] theorem State.after_channel : (s.after e).channel = .inFlight 0 e.rsp := rfl
@[simp] theorem State.after_flight : (s.after e).flight = some e.rsp := rfl
@[simp] theorem State.after_held : (s.after e).held = s.held := rfl
@[simp] theorem State.after_inputs : (s.after e).inputs = s.inputs := rfl
@[simp] theorem State.after_responses : (s.after e).responses = s.responses := rfl
@[simp] theorem State.after_draws : (s.after e).draws = s.draws + 1 := rfl

end

/-- States with the same registers and the same interface are equal. -/
theorem State.eq_of {s t : State} (h : s.toRegisters = t.toRegisters) (hc : s.channel = t.channel) (hh : s.held = t.held)
    (hi : s.inputs = t.inputs) (hr : s.responses = t.responses) (hd : s.draws = t.draws) : s = t := by
  cases s
  cases t
  simp_all

end Sys2Proof.Machine
end

