-- ==== Sys2Proof/Laws/Exec.lean ====
section
/-! SUPPORT. What an instruction can do to the clocked machine, said once, and laws of `State.reg`. -/

namespace Sys2Proof.Machine

/-- An instruction on the clocked machine is its effect on the registers: everything it can do, said once. -/
theorem exec_eq (i : Instr) (s : State) : exec i s = .next (s.after (effect i s.toRegisters)) := by
  cases i <;> rfl

/-- Every instruction completes. -/
theorem exec_next (i : Instr) (s : State) : ∃ t, exec i s = .next t := ⟨_, exec_eq i s⟩

/-- An instruction leaves the host's side alone, uses one free value and puts its response in flight. -/
theorem exec_host {i : Instr} {s t : State} (h : exec i s = .next t) :
    t.held = s.held ∧ t.inputs = s.inputs ∧ t.responses = s.responses ∧ t.draws = s.draws + 1 ∧
      ∃ r, t.channel = .inFlight 0 r := by
  rw [exec_eq] at h
  cases h
  exact ⟨rfl, rfl, rfl, rfl, _, rfl⟩

/-- States that agree on every register field agree on `reg`. -/
theorem reg_congr {s t : State} (h1 : t.crc32Acc = s.crc32Acc) (h2 : t.crc64Acc = s.crc64Acc)
    (h3 : t.vdecAcc = s.vdecAcc) (h4 : t.vdecCnt = s.vdecCnt) (h5 : t.vdecStop = s.vdecStop)
    (h6 : t.vrdAcc = s.vrdAcc) (h7 : t.vrdCnt = s.vrdCnt) (h8 : t.vrdState = s.vrdState) (h9 : t.sticky = s.sticky)
    (g : Reg) : t.reg g = s.reg g := by
  cases g <;> simp [State.reg, *]

/-- The number of a register determines its field. -/
theorem reg_inj {s t : State} :
    (s.reg .crc32Acc = t.reg .crc32Acc ↔ s.crc32Acc = t.crc32Acc) ∧
    (s.reg .crc64Acc = t.reg .crc64Acc ↔ s.crc64Acc = t.crc64Acc) ∧
    (s.reg .vdecAcc = t.reg .vdecAcc ↔ s.vdecAcc = t.vdecAcc) ∧
    (s.reg .vdecCnt = t.reg .vdecCnt ↔ s.vdecCnt = t.vdecCnt) ∧
    (s.reg .vdecStop = t.reg .vdecStop ↔ s.vdecStop = t.vdecStop) ∧
    (s.reg .vrdAcc = t.reg .vrdAcc ↔ s.vrdAcc = t.vrdAcc) ∧
    (s.reg .vrdCnt = t.reg .vrdCnt ↔ s.vrdCnt = t.vrdCnt) ∧
    (s.reg .vrdState = t.reg .vrdState ↔ s.vrdState = t.vrdState) ∧
    (s.reg .sticky = t.reg .sticky ↔ s.sticky = t.sticky) := by
  simp only [State.reg]
  refine ⟨BitVec.toNat_inj, BitVec.toNat_inj, BitVec.toNat_inj, BitVec.toNat_inj, ?_, BitVec.toNat_inj, BitVec.toNat_inj,
    ?_, BitVec.toNat_inj⟩
  · cases s.vdecStop <;> cases t.vdecStop <;> decide
  · cases s.vrdState <;> cases t.vrdState <;> decide

end Sys2Proof.Machine
end

