-- ==== Sys2Proof/Laws/PerInstr.lean ====
section
/-! SUPPORT. The opcode table, spec/opcode_table.json, read row by row: the encoder's command words lie in their rows. -/

namespace Sys2Proof.Laws.TableRow

/-- The `mask` of an instruction's row of spec/opcode_table.json. -/
def mask : Instr → CmdWord
  | .nop => 0xFFFF
  | .crc32Seed _ => 0xFFFF
  | .crc32Upd _ _ => 0x00FF
  | .crc32Get => 0xFFFF
  | .crc64Seed _ => 0xFFFF
  | .crc64Upd _ _ => 0x00FF
  | .crc64Get => 0xFFFF
  | .venc _ => 0xFFFF
  | .vdecClr => 0xFFFF
  | .vdecPush _ => 0x00FF
  | .vdecFin => 0xFFFF
  | .vrdStart => 0xFFFF
  | .vrdByte _ => 0x00FF
  | .vrdEof => 0xFFFF
  | .vrdGet => 0xFFFF
  | .statGet => 0xFFFF
  | .statClr => 0xFFFF

/-- The `match` value of an instruction's row. -/
def value : Instr → CmdWord
  | .nop => 0x0000
  | .crc32Seed _ => 0x0001
  | .crc32Upd _ _ => 0x0002
  | .crc32Get => 0x0003
  | .crc64Seed _ => 0x0004
  | .crc64Upd _ _ => 0x0005
  | .crc64Get => 0x0006
  | .venc _ => 0x0010
  | .vdecClr => 0x0020
  | .vdecPush _ => 0x0021
  | .vdecFin => 0x0022
  | .vrdStart => 0x0030
  | .vrdByte _ => 0x0031
  | .vrdEof => 0x0032
  | .vrdGet => 0x0033
  | .statGet => 0x0040
  | .statClr => 0x0041

/-- The command word of an instruction lies in the instruction's row. -/
def Statement (i : Instr) : Prop := (encode i).word &&& mask i = value i

theorem nop : Statement .nop := rfl

theorem crc32Seed (seed : BitVec 32) : Statement (.crc32Seed seed) := by
  show cmdWord 0 0x01 &&& 0xFFFF = 0x0001
  decide

theorem crc32Upd (k : Byte) (data : Data) : Statement (.crc32Upd k data) := by
  have h : ∀ x : Byte, cmdWord x 0x02 &&& 0x00FF = 0x02 := by decide +kernel
  exact h k

theorem crc32Get : Statement .crc32Get := rfl

theorem crc64Seed (seed : BitVec 64) : Statement (.crc64Seed seed) := by
  show cmdWord 0 0x04 &&& 0xFFFF = 0x0004
  decide

theorem crc64Upd (k : Byte) (data : Data) : Statement (.crc64Upd k data) := by
  have h : ∀ x : Byte, cmdWord x 0x05 &&& 0x00FF = 0x05 := by decide +kernel
  exact h k

theorem crc64Get : Statement .crc64Get := rfl

theorem venc (value : Data) : Statement (.venc value) := by
  show cmdWord 0 0x10 &&& 0xFFFF = 0x0010
  decide

theorem vdecClr : Statement .vdecClr := rfl

theorem vdecPush (b : Byte) : Statement (.vdecPush b) := by
  have h : ∀ x : Byte, cmdWord x 0x21 &&& 0x00FF = 0x21 := by decide +kernel
  exact h b

theorem vdecFin : Statement .vdecFin := rfl

theorem vrdStart : Statement .vrdStart := rfl

theorem vrdByte (b : Byte) : Statement (.vrdByte b) := by
  have h : ∀ x : Byte, cmdWord x 0x31 &&& 0x00FF = 0x31 := by decide +kernel
  exact h b

theorem vrdEof : Statement .vrdEof := rfl

theorem vrdGet : Statement .vrdGet := rfl

theorem statGet : Statement .statGet := rfl

theorem statClr : Statement .statClr := rfl

end Sys2Proof.Laws.TableRow
end

