-- ==== Sys2Proof/Laws/Step.lean ====
section
/-! SUPPORT. What one step can do, said once, and laws of runs of steps and of instructions. -/

namespace Sys2Proof.Machine

/-- A command leaves the host's side alone, uses one free value and puts its response in flight. -/
theorem runCommand_host {c : Command} {s t : State} (h : runCommand c s = .next t) :
    t.held = s.held ∧ t.inputs = s.inputs ∧ t.responses = s.responses ∧ t.draws = s.draws + 1 ∧
      ∃ r, t.channel = .inFlight 0 r := by
  unfold runCommand at h
  split at h
  · exact exec_host h
  · cases h
    exact ⟨rfl, rfl, rfl, rfl, _, rfl⟩

/-- Every command word completes. -/
theorem runCommand_next (c : Command) (s : State) : ∃ t, runCommand c s = .next t := by
  unfold runCommand
  split
  · exact exec_next _ _
  · exact ⟨_, rfl⟩

/-- The five things a step can be: a reset edge, the stop at a broken hold, the acceptance of a command, the taking of a
response, or a wait. -/
theorem step_cases (s : State) :
    (s.drives.rst = true ∧ step s = .next (s.resetEdge s.drives)) ∨
    (s.drives.rst = false ∧ s.breaksHold s.drives = true ∧ step s = .fault .hostBrokeHandshake) ∨
    (s.drives.rst = false ∧ s.breaksHold s.drives = false ∧ s.accepts s.drives = true ∧
      step s = runCommand s.drives.cmd (s.consume none)) ∨
    (s.drives.rst = false ∧ s.breaksHold s.drives = false ∧ s.accepts s.drives = false ∧
      s.takes s.drives = true ∧ step s = .next (s.takeEdge s.drives)) ∨
    (s.drives.rst = false ∧ s.breaksHold s.drives = false ∧ s.accepts s.drives = false ∧
      s.takes s.drives = false ∧ step s = .next (s.waitEdge s.drives)) := by
  unfold step
  cases h1 : s.drives.rst <;> cases h2 : s.breaksHold s.drives <;> cases h3 : s.accepts s.drives <;>
    cases h4 : s.takes s.drives <;> simp [h1, h2, h3, h4]

theorem rspValid_iff (s : State) :
    s.rspValid = true ↔ ∃ w r, s.channel = .inFlight w r ∧ Config.latency s.draws ≤ w + 1 := by
  unfold State.rspValid
  split <;> simp_all

theorem cmdReady_iff (s : State) :
    s.cmdReady = true ↔ s.channel = .ready ∨ ∃ w, s.channel = .starting w ∧ Config.tableBuild s.draws ≤ w := by
  unfold State.cmdReady
  split <;> simp_all

theorem flight_iff (s : State) (r : Response) : s.flight = some r ↔ ∃ w, s.channel = .inFlight w r := by
  unfold State.flight
  split <;> simp_all

/-- Where the host's list has not ended, it drives its head. -/
theorem drives_cons {s : State} {p : PortIn} {rest : List PortIn} (h : s.inputs = p :: rest) : s.drives = p := by
  simp [State.drives, h]

/-- Without a reset in the list, no reset is driven. -/
theorem drives_rst_false {s : State} (h : ∀ p ∈ s.inputs.take 1, p.rst = false) : s.drives.rst = false := by
  unfold State.drives
  cases hi : s.inputs with
  | nil => cases s.held <;> rfl
  | cons p ps => exact h p (by simp [hi])

theorem steps_succ_next {n : Nat} {s t : State} (h : step s = .next t) : steps (n + 1) s = steps n t := by
  simp [steps, h]

theorem steps_succ_fault {n : Nat} {s : State} {f : Fault} (h : step s = .fault f) : steps (n + 1) s = .fault f := by
  simp [steps, h]

theorem steps_add {m : Nat} (n : Nat) {s t : State} (h : steps m s = .next t) : steps (m + n) s = steps n t := by
  induction m generalizing s with
  | zero =>
    cases h
    simp
  | succ m ih =>
    cases hs : step s with
    | next u =>
      rw [steps_succ_next hs] at h
      rw [show m + 1 + n = (m + n) + 1 by omega, steps_succ_next hs]
      exact ih h
    | fault f => simp [steps, hs] at h
    | refused f => simp [steps, hs] at h

theorem execAll_append (is js : List Instr) (s t : State) (h : execAll is s = .next t) :
    execAll (is ++ js) s = execAll js t := by
  induction is generalizing s with
  | nil =>
    cases h
    rfl
  | cons i is ih =>
    rw [List.cons_append, execAll]
    rw [execAll] at h
    split at h
    · exact ih _ h
    · cases h
    · cases h

end Sys2Proof.Machine
end

