-- ==== Sys2Proof/Laws/Varint.lean ====
section
/-! SUPPORT. Laws of byte lanes, of the varint groups and of the bytes the encode loop emits: what they are on numbers. -/

namespace Sys2Proof.Machine

/-- The group of a byte on numbers. -/
theorem group_toNat (b : Byte) (i : Nat) : (group b i).toNat = ((b.toNat &&& 0x7F) <<< (7 * i)) % 2 ^ 63 := by
  have h : (b.toNat &&& 0x7F) < 2 ^ 63 := by
    have := b.isLt
    have := Nat.and_le_left (n := b.toNat) (m := 0x7F)
    omega
  simp only [group, BitVec.toNat_shiftLeft, BitVec.toNat_setWidth, BitVec.toNat_and]
  rw [show BitVec.toNat (0x7F : Byte) = 0x7F from rfl, Nat.mod_eq_of_lt h]

/-- The low seven bits of a byte. -/
theorem and_7F (n : Nat) : n &&& 0x7F = n % 128 := Nat.and_two_pow_sub_one_eq_mod n 7

/-- A value below the group's place is not disturbed by it: accumulation is addition. -/
theorem withGroup_eq_add {acc i : Nat} (b : Byte) (h : acc < 2 ^ (7 * i)) :
    withGroup acc b i = acc + b.toNat % 128 * 2 ^ (7 * i) := by
  rw [withGroup, Nat.or_comm, ← Nat.shiftLeft_add_eq_or_of_lt h, and_7F, Nat.shiftLeft_eq, Nat.add_comm]

/-- One more group takes seven more bits. -/
theorem withGroup_lt {acc i : Nat} (b : Byte) (h : acc < 2 ^ (7 * i)) : withGroup acc b i < 2 ^ (7 * (i + 1)) := by
  rw [withGroup_eq_add b h, Nat.mul_add, Nat.pow_add]
  have hb : b.toNat % 128 ≤ 127 := by omega
  have hm := Nat.mul_le_mul_right (2 ^ (7 * i)) hb
  omega

/-- Accumulation at a position up to 8, in the 63-bit register, is accumulation on numbers. -/
theorem or_group (acc : VarintAcc) (b : Byte) {i : Nat} (hi : i ≤ 8) :
    (acc ||| group b i).toNat = withGroup acc.toNat b i := by
  have h : (b.toNat &&& 0x7F) <<< (7 * i) < 2 ^ 63 := by
    rw [and_7F, Nat.shiftLeft_eq]
    have h1 := Nat.mod_lt b.toNat (show 0 < 128 by omega)
    have h2 : 2 ^ (7 * i) ≤ 2 ^ 56 := Nat.pow_le_pow_right (by omega) (by omega)
    calc b.toNat % 128 * 2 ^ (7 * i) ≤ 127 * 2 ^ 56 := Nat.mul_le_mul (by omega) h2
      _ < 2 ^ 63 := by norm_num
  rw [BitVec.toNat_or, group_toNat, Nat.mod_eq_of_lt h, withGroup]

/-- The continuation bit on numbers. -/
theorem continuation_eq (b : Byte) : continuation b = decide (0x80 ≤ b.toNat) := by
  have : ∀ b : Byte, continuation b = decide (0x80 ≤ b.toNat) := by decide +kernel
  exact this b

/-- A byte count below 16 is its register's number. -/
theorem count_toNat {n : Nat} (h : n < 16) : (count n).toNat = n := by
  rw [count, BitVec.toNat_ofNat]
  exact Nat.mod_eq_of_lt h

/-- `or_group` as the register's value. -/
theorem or_group_eq (acc : VarintAcc) (b : Byte) {i : Nat} (hi : i ≤ 8) :
    acc ||| group b i = BitVec.ofNat 63 (withGroup acc.toNat b i) := by
  rw [← or_group _ _ hi, BitVec.ofNat_toNat, BitVec.setWidth_eq]

/-- A byte of an encoding that is not the last, on numbers. -/
theorem more_toNat (v : Data) : ((v.setWidth 8 &&& 0x7F) ||| 0x80 : Byte).toNat = v.toNat % 128 + 128 := by
  have : ∀ b : Byte, ((b &&& 0x7F) ||| 0x80 : Byte).toNat = b.toNat % 128 + 128 := by decide +kernel
  rw [this]
  simp

/-- The last byte of an encoding, on numbers. -/
theorem last_toNat {v : Data} (h : v.toNat < 128) : (v.setWidth 8 : Byte).toNat = v.toNat := by
  simp
  omega

/-- What is left of a value after one group. -/
theorem shr7_toNat (v : Data) : (v >>> 7).toNat = v.toNat / 128 := by
  rw [BitVec.toNat_ushiftRight, Nat.shiftRight_eq_div_pow]

/-- A packed byte sequence fits in its bytes. -/
theorem packNat_lt (bs : List Byte) : packNat bs < 2 ^ (8 * bs.length) := by
  induction bs with
  | nil => simp [packNat]
  | cons b bs ih =>
    have := b.isLt
    simp only [packNat, List.length_cons, Nat.mul_add, Nat.pow_add]
    omega

/-- Byte `j` of a packed byte sequence. -/
theorem packNat_byte (bs : List Byte) (j : Nat) (hj : j < bs.length) :
    packNat bs / 2 ^ (8 * j) % 256 = bs[j].toNat := by
  induction bs generalizing j with
  | nil => simp at hj
  | cons b bs ih =>
    have := b.isLt
    cases j with
    | zero =>
      simp [packNat]
      omega
    | succ j =>
      simp only [packNat, List.getElem_cons_succ]
      rw [show 8 * (j + 1) = 8 + 8 * j by omega, Nat.pow_add, ← Nat.div_div_eq_div_mul,
        show (b.toNat + 2 ^ 8 * packNat bs) / 2 ^ 8 = packNat bs by omega]
      exact ih j (by simpa using hj)

/-- Lane `j` of a packed byte sequence is byte `j` (00_scope.md R10). -/
theorem lane_pack (bs : List Byte) (h : bs.length ≤ 8) (j : Nat) (hj : j < bs.length) : lane (pack bs) j = bs[j] := by
  apply BitVec.eq_of_toNat_eq
  simp only [lane, pack, BitVec.extractLsb'_toNat, BitVec.toNat_ofNat, Nat.shiftRight_eq_div_pow]
  have : packNat bs < 2 ^ 64 := lt_of_lt_of_le (packNat_lt bs) (Nat.pow_le_pow_right (by omega) (by omega))
  rw [Nat.mod_eq_of_lt this]
  exact packNat_byte bs j hj

/-- The lanes of a packed byte sequence are the sequence. -/
theorem lanes_pack (bs : List Byte) (h : bs.length ≤ 8) : lanes (pack bs) bs.length = bs := by
  apply List.ext_getElem
  · simp [lanes]
  · intro j h1 h2
    simp only [lanes, List.getElem_map, List.getElem_range]
    exact lane_pack bs h j h2

end Sys2Proof.Machine
end

