-- ==== Sys2Proof/Tests/Slice0.lean ====
section
/-! SUPPORT. Tests: the well-formedness smoke, the decoding of words written out from the spec's encodings, single commands
with results the spec prints, and a witness for the hypotheses of every statement that has some. Expected values are the
examples of spec/ named in each comment; none is the model's own answer. -/

namespace Sys2Proof.Tests

open Sys2Proof.Machine

/-! ### Helpers -/

/-- The block right after reset, tables built. -/
def idle : State := { State.reset with channel := .ready }

/-- The state of a next outcome. -/
def nextOf : Result → Option State
  | .next t => some t
  | .fault _ => none
  | .refused _ => none

/-- What a command answers. -/
def answer (r : Result) : Option Response := (nextOf r).bind State.flight

/-- One register after a command. -/
def left {α : Type} (r : Result) (field : State → α) : Option α := (nextOf r).map field

/-- The instruction a word decodes to. -/
def decoded (w : CmdWord) (d : Data) : Option Instr :=
  match decode w d with
  | .ok i => some i
  | .error _ => none

/-- A reader in the middle of a varint. -/
def reading (acc : VarintAcc) (cnt : Nibble) : State := { idle with vrdState := .active, vrdAcc := acc, vrdCnt := cnt }

/-! ### Well-formedness: the one check, 30_encoding.md R65 -/

theorem test_wellFormed_crc32Upd_9 : ¬(Instr.crc32Upd 9 0).WellFormed := by decide

theorem test_wellFormed_crc64Upd_9 : ¬(Instr.crc64Upd 9 0).WellFormed := by decide

theorem test_wellFormed_crc32Upd_255 : ¬(Instr.crc32Upd 255 0).WellFormed := by decide

theorem test_wellFormed_crc64Upd_8 : (Instr.crc64Upd 8 0).WellFormed := by decide

theorem test_decode_refuses_ill_formed :
    decode (encode (.crc32Upd 9 0)).word 0 = .error .byteCountAbove8 ∧
    decode (encode (.crc64Upd 255 0)).word 0 = .error .byteCountAbove8 := by decide

/-! ### Decoding: words written out bit by bit, imm then op (30_encoding.md R61, R64) -/

theorem test_decode_nop : decoded 0b0000000000000000#16 0xFF#64 = some .nop := by decide

theorem test_decode_crc32Seed : decoded 0b0000000000000001#16 0x12345678BCA0D360#64 = some (.crc32Seed 0xBCA0D360) := by
  decide

theorem test_decode_crc32Upd : decoded 0b0000001100000010#16 0x636261#64 = some (.crc32Upd 3 0x636261) := by decide

theorem test_decode_crc32Get : decoded 0b0000000000000011#16 0#64 = some .crc32Get := by decide

theorem test_decode_crc64Seed :
    decoded 0b0000000000000100#16 0xB09DA6A8EA2E7EFD#64 = some (.crc64Seed 0xB09DA6A8EA2E7EFD) := by decide

theorem test_decode_crc64Upd : decoded 0b0000100000000101#16 0x41#64 = some (.crc64Upd 8 0x41) := by decide

theorem test_decode_crc64Get : decoded 0b0000000000000110#16 0#64 = some .crc64Get := by decide

theorem test_decode_venc : decoded 0b0000000000010000#16 300#64 = some (.venc 300) := by decide

theorem test_decode_vdecClr : decoded 0b0000000000100000#16 0#64 = some .vdecClr := by decide

theorem test_decode_vdecPush : decoded 0b1010110000100001#16 0#64 = some (.vdecPush 0xAC) := by decide

theorem test_decode_vdecFin : decoded 0b0000000000100010#16 0#64 = some .vdecFin := by decide

theorem test_decode_vrdStart : decoded 0b0000000000110000#16 0#64 = some .vrdStart := by decide

theorem test_decode_vrdByte : decoded 0b1111111100110001#16 0#64 = some (.vrdByte 0xFF) := by decide

theorem test_decode_vrdEof : decoded 0b0000000000110010#16 0#64 = some .vrdEof := by decide

theorem test_decode_vrdGet : decoded 0b0000000000110011#16 0#64 = some .vrdGet := by decide

theorem test_decode_statGet : decoded 0b0000000001000000#16 0#64 = some .statGet := by decide

theorem test_decode_statClr : decoded 0b0000000001000001#16 0#64 = some .statClr := by decide

theorem test_decode_illegal :
    decode 0x0100#16 0 = .error .immediateNotZero ∧ decode 0x0902#16 0 = .error .byteCountAbove8 ∧
    decode 0x0007#16 0 = .error .reservedOpcode ∧ decode 0x00FF#16 0 = .error .reservedOpcode := by decide

/-- The 80-bit numbering: data in bits 79:16 (notes/assumptions/16.md). -/
theorem test_decodeTableWord :
    decodeTableWord 80 0x00000000000001_2C_0010 = some (.venc 300) ∧ decodeTableWord 16 0x0302 = some (.crc32Upd 3 0) ∧
    decodeTableWord 16 0x0100 = none := by decide

/-! ### The CRC engines -/

/-- 10_state.md R30, R31: sample entries. -/
theorem test_tables :
    t32 0xAA = 0x36034AF6 ∧ t32 0x10 = 0x1DB71064 ∧ t64 0xAA = 0x317EA4BB22BFDFED ∧ t64 0x02 = 0xF4843657A840A05B := by
  decide +kernel

/-- 41_crc32.md R114, the example and the illegal count. -/
theorem test_crc32Upd :
    left (exec (.crc32Upd 3 0xFF636261) idle) (fun t => t.crc32Acc) = some 0x352441C2 ∧
    answer (exec (.crc32Upd 9 0) idle) = some ⟨.error .illegalCommand, 0, 0, 0⟩ := by decide +kernel

/-- 41_crc32.md R113, R115: the examples. -/
theorem test_crc32Seed : left (exec (.crc32Seed 0xBCA0D360) idle) (fun t => t.crc32Acc) = some 0xBCA0D360 := by decide

theorem test_crc32Get :
    answer (exec .crc32Get { idle with crc32Acc := 0x352441C2 }) = some ⟨.ok, 0x352441C2, 0, 4⟩ := by decide

/-- 95_test_vectors.md V1: the last 7 of the 15 bytes of "this is a test\n", from the CRC of the first 8. -/
theorem test_crc32Upd_chain :
    left (exec (.crc32Upd 7 0x0A747365742061) { idle with crc32Acc := 0xBCA0D360 }) (fun t => t.crc32Acc) = some 0x72051312 := by
  decide +kernel

/-- 42_crc64.md R134: the example, and eight bytes FF. -/
theorem test_crc64Upd :
    left (exec (.crc64Upd 3 0x636261) idle) (fun t => t.crc64Acc) = some 0x2CD8094A1A277627 ∧
    left (exec (.crc64Upd 8 0xFFFFFFFFFFFFFFFF) idle) (fun t => t.crc64Acc) = some 0xFFFFFFFFFFFFFFFF := by decide +kernel

/-- 42_crc64.md R133, R135: the examples. -/
theorem test_crc64Seed : left (exec (.crc64Seed 0xB09DA6A8EA2E7EFD) idle) (fun t => t.crc64Acc) = some 0xB09DA6A8EA2E7EFD := by
  decide

theorem test_crc64Get :
    answer (exec .crc64Get { idle with crc64Acc := 0x2CD8094A1A277627 }) = some ⟨.ok, 0x2CD8094A1A277627, 0, 8⟩ := by
  decide

/-! ### The varint codec -/

/-- 40_varint.md R82: the example, and the corner cases. -/
theorem test_venc_300 :
    answer (exec (.venc 300) idle) = some ⟨.ok, 0x02AC, 0, 2⟩ ∧ answer (exec (.venc 0) idle) = some ⟨.ok, 0, 0, 1⟩ := by
  decide

theorem test_venc_largest :
    answer (exec (.venc 0x7FFFFFFFFFFFFFFF) idle) = some ⟨.ok, 0xFFFFFFFFFFFFFFFF, 0x7F, 9⟩ ∧
    answer (exec (.venc 0x8000000000000000) idle) = some ⟨.error .varintTooLarge, 0, 0, 0⟩ := by decide

/-- 40_varint.md R86. -/
theorem test_vdecClr : left (exec .vdecClr { idle with vdecAcc := 5, vdecCnt := 10, vdecStop := true })
    (fun t => (t.vdecAcc, t.vdecCnt, t.vdecStop)) = some (0, 0, false) := by decide

/-- 40_varint.md R87: the second byte of the example, and the zero byte that stops. -/
theorem test_vdecPush :
    left (exec (.vdecPush 0x02) { idle with vdecAcc := 0x2C, vdecCnt := 1 }) (fun t => (t.vdecAcc, t.vdecCnt))
      = some (0x12C, 2) ∧
    left (exec (.vdecPush 0x00) { idle with vdecAcc := 0x2C, vdecCnt := 1 }) (fun t => (t.vdecAcc, t.vdecStop))
      = some (0x2C, true) := by decide

theorem test_vdecPush_saturates :
    left (exec (.vdecPush 0x7F) { idle with vdecCnt := 10 }) (fun t => (t.vdecAcc, t.vdecCnt)) = some (0, 10) := by decide

/-- 40_varint.md R88: the example, and more than 9 bytes. -/
theorem test_vdecFin :
    answer (exec .vdecFin { idle with vdecAcc := 300, vdecCnt := 2 }) = some ⟨.ok, 300, 0, 2⟩ ∧
    answer (exec .vdecFin { idle with vdecCnt := 10 }) = some ⟨.error .varintTooLong, 0, 0, 0⟩ := by decide

/-- 40_varint.md R93, R94: the examples, and a byte with no read active. -/
theorem test_vrdStart : left (exec .vrdStart { idle with vrdState := .done, vrdCnt := 3 })
    (fun t => (t.vrdState, t.vrdCnt)) = some (.active, 0) := by decide

theorem test_vrdByte :
    answer (exec (.vrdByte 0xAC) (reading 0 0)) = some ⟨.more, 0, 0, 1⟩ ∧
    answer (exec (.vrdByte 0x02) (reading 0x2C 1)) = some ⟨.ok, 300, 0, 2⟩ ∧
    answer (exec (.vrdByte 0x02) idle) = some ⟨.error .sequenceError, 0, 0, 0⟩ := by decide

/-- 40_varint.md R94: the ninth byte with bit 7 set. -/
theorem test_vrdByte_ninth :
    left (exec (.vrdByte 0x80) (reading 1 8)) (fun t => (t.vrdAcc, t.vrdCnt, t.vrdState, t.sticky))
      = some (1, 9, .error, 0x8) := by decide

/-- 40_varint.md R95, R96: the examples. -/
theorem test_vrdEof :
    answer (exec .vrdEof (reading 0x2C 1)) = some ⟨.error .truncated, 0, 0, 0⟩ ∧
    left (exec .vrdEof (reading 0x2C 1)) (fun t => t.vrdState) = some .error ∧
    answer (exec .vrdEof idle) = some ⟨.error .sequenceError, 0, 0, 0⟩ := by decide

theorem test_vrdGet :
    answer (exec .vrdGet { idle with vrdState := .done, vrdAcc := 300, vrdCnt := 2 }) = some ⟨.ok, 300, 0, 2⟩ := by decide

/-- 40_varint.md R89, R92: inputs that are no minimal encoding. -/
theorem test_dec_rd :
    dec [0x80, 0x00, 0x01] = some 0 ∧ dec [] = some 0 ∧ rd [0x80, 0x00] = .value 0 2 ∧
    rd (List.replicate 8 0xFF ++ [0x7F]) = .value (2 ^ 63 - 1) 9 := by decide

/-! ### Control commands and errors -/

/-- 43_control.md R150, R151, R152: the examples. -/
theorem test_nop : answer (exec .nop idle) = some ⟨.ok, 0, 0, 0⟩ := by decide

theorem test_statGet : answer (exec .statGet (reading 0 1)) = some ⟨.ok, 0x50, 0, 0⟩ := by decide

/-- 10_state.md R35: every field in its place. -/
theorem test_statGet_all :
    answer (exec .statGet { idle with vdecStop := true, vdecCnt := 10, vrdCnt := 9, vrdState := .error, sticky := 0x8 })
      = some ⟨.ok, 0x6A78, 0, 0⟩ := by decide

theorem test_statClr :
    left (exec .statClr { idle with sticky := 0xC, vrdState := .error }) (fun t => (t.sticky, t.vrdState))
      = some (0, .error) := by decide

/-- 60_exceptions.md R161, R162: an illegal word, and the first error stays. -/
theorem test_illegal :
    answer (runCommand ⟨0x0100, 0⟩ idle) = some ⟨.error .illegalCommand, 0, 0, 0⟩ ∧
    left (runCommand ⟨0x0100, 0⟩ idle) (fun t => t.sticky) = some 0xB ∧
    left (runCommand ⟨0x0100, 0⟩ { idle with sticky := 0x9 }) (fun t => t.sticky) = some 0x9 := by decide

/-! ### Steps -/

/-- A command of the table, presented by `withFetchWord`, runs at the next step, from reset. -/
theorem test_step_withFetchWord :
    answer (step (State.reset.withFetchWord 16 0x0010)) = some ⟨.ok, 0, 0, 1⟩ ∧
    answer (step (State.reset.withFetchWord 80 0x000000000000012C0010)) = some ⟨.ok, 0x02AC, 0, 2⟩ := by decide

/-- 20_memory.md R42, R51: a held command that changes. -/
theorem test_step_broken_hold :
    step { idle with held := some ⟨0x0040, 0⟩, inputs := [⟨false, true, ⟨0x0041, 0⟩, false⟩] }
      = .fault .hostBrokeHandshake := rfl

/-- 70_reset_and_hazards.md R180: reset at an edge, with a command in flight. -/
theorem test_step_reset :
    left (step { idle with crc32Acc := 7, sticky := 0xB, channel := .inFlight 3 ⟨.ok, 0, 0, 0⟩,
                           inputs := [⟨true, false, ⟨0, 0⟩, true⟩] })
      (fun t => (t.crc32Acc, t.sticky, t.channel, t.responses)) = some (0, 0, .starting 0, []) := by decide

/-! ### The assembler (30_encoding.md R68, R69) -/

theorem test_assemble :
    assembleLine "vdec.buf 0xAC, 2".toList
      = some [⟨0x0020, 0⟩, ⟨0xAC21, 0⟩, ⟨0x0221, 0⟩, ⟨0x0022, 0⟩] ∧
    assembleLine "  .word 0100:0000000000000000".toList = some [⟨0x0100, 0⟩] ∧
    assembleLine "crc32.upd 9, 0".toList = none ∧ assembleLine "vdec.push 256".toList = none := by decide +kernel

/-! ### Witnesses: a state and operands that meet the hypotheses of each statement that has some -/

/-- A response to have in flight. -/
def someResponse : Response := ⟨.ok, 0, 0, 0⟩

/-- A state whose response can be taken at the next edge, whatever the latency, with this next input. -/
def answering (p : PortIn) : State :=
  { idle with channel := .inFlight (Config.latency 0) someResponse, inputs := [p] }

theorem answering_rspValid (p : PortIn) : (answering p).rspValid = true := by
  simp [answering, State.rspValid, idle, State.reset]

theorem witness_DecodeOfEncodeIsTheInstruction : (Instr.crc32Upd 8 0x74736574).WellFormed := by decide

theorem witness_EncodeOfDecodeRestoresTheWord : decode 0x0802#16 5 = .ok (.crc32Upd 8 5) := by decide

theorem illegalWord_reserved : IllegalWord 0x0007#16 := .inl (by decide)

theorem illegalWord_count : IllegalWord 0x0905#16 := .inr (.inl (by decide))

theorem illegalWord_immediate : IllegalWord 0x0141#16 := .inr (.inr (by decide))

/-- The three causes, each at a boundary; for IllegalCommandOnlyUpdatesSticky too. -/
theorem witness_IllegalWordsAreExactlyTheListed :
    IllegalWord (Command.mk 0x0007 0).word ∧ IllegalWord (Command.mk 0x0905 0).word ∧
    IllegalWord (Command.mk 0x0141 0).word ∧ ¬IllegalWord 0x0802#16 :=
  ⟨illegalWord_reserved, illegalWord_count, illegalWord_immediate, by simp [IllegalWord, plainOpcodes]⟩

theorem witness_IllegalCommandOnlyUpdatesSticky : IllegalWord (Command.mk 0x0905 0).word := illegalWord_count

theorem witness_UnusedDataBitsDoNotMatter :
    (0xFFFFFFFF00000005 : Data) &&& usedData 0x0001#16 = 5 &&& usedData 0x0001#16 ∧
    (0x00FF : Data) &&& usedData 0x0102#16 = 0xAAFF &&& usedData 0x0102#16 := by decide

/-- Both clauses of StepRunsTheDecodedCommand, with nothing held and with the command held; for ErrorDoesNotStopTheBlock
too. -/
theorem witness_StepRunsTheDecodedCommand :
    (let s := { idle with inputs := [⟨false, true, ⟨0x0010, 300⟩, false⟩] }
     s.cmdReady = true ∧ s.held = none ∧ s.inputs = ⟨false, true, ⟨0x0010, 300⟩, false⟩ :: [] ∧
       decode 0x0010#16 300 = .ok (.venc 300)) ∧
    (let s := { idle with held := some ⟨0x0010, 300⟩, inputs := [⟨false, true, ⟨0x0010, 300⟩, false⟩] }
     s.cmdReady = true ∧ s.held = some ⟨0x0010, 300⟩) ∧
    decodeTableWord 16 0x0802 = some (.crc32Upd 8 0) := by decide

theorem witness_ErrorDoesNotStopTheBlock :
    let s := { idle with sticky := 0xB, inputs := [⟨false, true, ⟨0x00FF, 0⟩, true⟩] }
    s.cmdReady = true ∧ (s.held = none ∨ s.held = some ⟨0x00FF, 0⟩) ∧
      s.inputs = ⟨false, true, ⟨0x00FF, 0⟩, true⟩ :: [] := by decide

theorem witness_ResetEdgeFromAnyState :
    (answering ⟨true, true, ⟨0x0041, 0⟩, true⟩).inputs = ⟨true, true, ⟨0x0041, 0⟩, true⟩ :: [] ∧
    (⟨true, true, ⟨0x0041, 0⟩, true⟩ : PortIn).rst = true := ⟨rfl, rfl⟩

theorem witness_ResponseIsTakenAtValidAndReady :
    let p : PortIn := ⟨false, false, ⟨0, 0⟩, true⟩
    (answering p).inputs = p :: [] ∧ p.rst = false ∧ (answering p).breaksHold p = false ∧
      (answering p).flight = some someResponse ∧ (answering p).rspValid = true ∧ p.rspReady = true :=
  ⟨rfl, rfl, rfl, rfl, answering_rspValid _, rfl⟩

theorem witness_UntakenResponseStaysStable :
    let p : PortIn := ⟨false, false, ⟨0, 0⟩, false⟩
    (answering p).inputs = p :: [] ∧ p.rst = false ∧ (answering p).breaksHold p = false ∧
      (answering p).rspValid = true ∧ p.rspReady = false :=
  ⟨rfl, rfl, rfl, answering_rspValid _, rfl⟩

/-- A command that completes; and a response kept, taken and dropped by reset. -/
theorem witness_OneCommandInFlight :
    (∃ t, runCommand ⟨0x0040, 0⟩ idle = .next t) ∧
    (let p : PortIn := ⟨false, false, ⟨0, 0⟩, false⟩
     (answering p).flight = some someResponse ∧ ∃ t, step (answering p) = .next t ∧ t.flight = some someResponse) ∧
    (let p : PortIn := ⟨false, false, ⟨0, 0⟩, true⟩
     (answering p).flight = some someResponse ∧ ∃ t, step (answering p) = .next t ∧ t.responses = [someResponse]) ∧
    (let p : PortIn := ⟨true, false, ⟨0, 0⟩, true⟩
     (answering p).flight = some someResponse ∧ ∃ t, step (answering p) = .next t ∧ t.responses = []) := by
  refine ⟨⟨_, rfl⟩, ⟨rfl, ?_⟩, ⟨rfl, ?_⟩, rfl, _, rfl, rfl⟩
  · refine ⟨(answering ⟨false, false, ⟨0, 0⟩, false⟩).waitEdge ⟨false, false, ⟨0, 0⟩, false⟩, ?_, rfl⟩
    simp [step, answering, idle, State.reset, State.drives, State.breaksHold, State.accepts, State.takes]
  · refine ⟨(answering ⟨false, false, ⟨0, 0⟩, true⟩).takeEdge ⟨false, false, ⟨0, 0⟩, true⟩, ?_, rfl⟩
    simp [step, answering, idle, State.reset, State.drives, State.breaksHold, State.accepts, State.takes, State.cmdReady,
      State.rspValid]

/-- A step that changes no register; one that accepts a command; one that resets. -/
theorem witness_RegistersChangeOnlyByCommandOrReset :
    (∃ t, step idle = .next t) ∧
    (∃ t, step { idle with inputs := [⟨false, true, ⟨0x0001, 5⟩, false⟩] } = .next t ∧ t.crc32Acc = 5) ∧
    (∃ t, step { idle with crc32Acc := 5, inputs := [⟨true, false, ⟨0, 0⟩, false⟩] } = .next t ∧ t.crc32Acc = 0) :=
  ⟨⟨_, rfl⟩, ⟨_, rfl, rfl⟩, _, rfl, rfl⟩

/-- With nothing driven, steps go on for ever. -/
theorem idle_steps (n : Nat) (s : State) (hi : s.inputs = []) (hh : s.held = none) : ∃ u, steps n s = .next u := by
  induction n generalizing s with
  | zero => exact ⟨s, rfl⟩
  | succ n ih =>
    have hstep : step s = .next (s.waitEdge ⟨false, false, ⟨0, 0⟩, false⟩) := by
      simp [step, State.drives, hi, hh, State.breaksHold, State.accepts, State.takes]
    obtain ⟨u, hu⟩ := ih (s.waitEdge ⟨false, false, ⟨0, 0⟩, false⟩) (by simp [hi]) rfl
    exact ⟨u, by rw [steps, hstep]; exact hu⟩

theorem witness_CommandIsAnsweredWithinItsLatency :
    let s : State := { idle with channel := .inFlight 0 someResponse }
    let n := Config.latency 0
    s.channel = .inFlight 0 someResponse ∧ Config.latency s.draws ≤ 0 + 1 + n ∧
      (∀ p ∈ s.inputs.take n, p.rst = false) ∧ ∃ u, steps n s = .next u := by
  refine ⟨rfl, ?_, by simp [idle, State.reset], idle_steps _ _ rfl rfl⟩
  simp [idle, State.reset]

theorem witness_BlockBecomesReadyAfterReset :
    let p : PortIn := ⟨true, false, ⟨0, 0⟩, false⟩
    let s : State := { idle with inputs := [p] }
    let n := Config.tableBuild 1
    s.inputs = p :: [] ∧ p.rst = true ∧ Config.tableBuild (s.draws + 1) ≤ n ∧
      (∀ q ∈ ([] : List PortIn).take n, q.rst = false) ∧ ∃ u, steps (n + 1) s = .next u := by
  refine ⟨rfl, rfl, le_refl _, by simp, ?_⟩
  exact idle_steps (Config.tableBuild 1) (State.resetEdge { idle with inputs := [⟨true, false, ⟨0, 0⟩, false⟩] }
    ⟨true, false, ⟨0, 0⟩, false⟩) rfl rfl

theorem witness_HandshakeRunIsTheAtomicRun :
    let cmds : List (Command × Nat) := [(⟨0x0010, 300⟩, Config.latency 1), (⟨0x00FF, 0⟩, Config.latency 2)]
    let s : State := { idle with inputs := driveAll cmds ++ [] }
    s.channel = .ready ∧ s.held = none ∧ s.inputs = driveAll cmds ++ [] ∧ waitsLongEnough cmds (s.draws + 1) := by
  refine ⟨rfl, rfl, rfl, ?_⟩
  intro j p hp
  match j with
  | 0 =>
    cases hp
    exact Nat.le_succ _
  | 1 =>
    cases hp
    exact Nat.le_succ _
  | j + 2 => simp at hp

/-- Each way to break a hold, and a host whose list has ended. -/
theorem witness_StepStopsOnlyOnABrokenHold :
    step { idle with held := some ⟨0x0040, 0⟩, inputs := [⟨false, false, ⟨0x0040, 0⟩, false⟩] }
      = .fault .hostBrokeHandshake ∧
    (∃ t, step { idle with held := some ⟨0x0040, 0⟩, inputs := [⟨true, true, ⟨0x0041, 0⟩, false⟩] } = .next t) ∧
    idle.inputs = [] := ⟨rfl, ⟨_, rfl⟩, rfl⟩

/-- Counts at the boundary of both clauses, for CRC32.UPD and CRC64.UPD. -/
theorem witness_CrcUpdAbsorbsTheLanes :
    (8#8).toNat ≤ 8 ∧ 8 < (9#8).toNat ∧ (0#8).toNat ≤ 8 ∧ 8 < (255#8).toNat := by decide

/-- PlainEncoding, CountEncoding: an immediate of each clause. -/
theorem witness_encodings : (0x01#8 : Byte) ≠ 0#8 ∧ (8#8).toNat ≤ 8 ∧ 8 < (9#8).toNat := by decide

theorem witness_Crc32AccIsTheCrcOfAllAbsorbed :
    ∀ i ∈ [Instr.crc32Upd 8 5, .statGet, .crc64Seed 1, .crc32Upd 0 0],
      i.WellFormed ∧ ∀ seed, i ≠ .crc32Seed seed := by simp [Instr.WellFormed, Instr.wellFormed, byteCountLegal]

theorem witness_Crc64AccIsTheCrcOfAllAbsorbed :
    ∀ i ∈ [Instr.crc64Upd 8 5, .statGet, .crc32Seed 1, .crc64Upd 0 0],
      i.WellFormed ∧ ∀ seed, i ≠ .crc64Seed seed := by simp [Instr.WellFormed, Instr.wellFormed, byteCountLegal]

/-- The largest value and the smallest too large; for EncodingFollowsTheFormat, DecodeLaws and EncodedValuesReadBack too. -/
theorem witness_VencRespondsTheEncoding :
    (0x7FFFFFFFFFFFFFFF : Data).toNat < 2 ^ 63 ∧ 2 ^ 63 ≤ (0x8000000000000000 : Data).toNat := by decide

theorem witness_EncodingFollowsTheFormat :
    (0x7FFFFFFFFFFFFFFF : Data).toNat < 2 ^ 63 ∧ (enc 0x7FFFFFFFFFFFFFFF)[8]? = some 0x7F ∧
    (128 : Data).toNat < 2 ^ (7 * 2) ∧ 1 ≤ 2 := by decide

theorem witness_DecodeLaws : (0 : Data).toNat < 2 ^ 63 ∧ enc 0 = [0x00] := by decide

theorem witness_EncodedValuesReadBack : (0x7FFFFFFFFFFFFFFF : Data).toNat < 2 ^ 63 := by decide

theorem witness_VdecFinRespondsOrFails :
    ({ idle with vdecCnt := 9 }).vdecCnt.toNat ≤ 9 ∧ 9 < ({ idle with vdecCnt := 10 }).vdecCnt.toNat := by decide

theorem witness_BufferDecoderComputesDec :
    dec (List.replicate 9 0xFF) = some (2 ^ 63 - 1) ∧ dec (List.replicate 10 0x00) = none ∧ dec [] = some 0 := by decide

/-- The four cases, at the positions where they meet. -/
theorem witness_VrdByteReadsOneByte :
    ((reading 0 8).vrdState = .active ∧ (reading 0 8).vrdCnt.toNat ≤ 8 ∧ (0x7F#8).toNat < 0x80) ∧
    ((reading 0 8).vrdCnt.toNat = 8 ∧ 0x80 ≤ (0x80#8).toNat) ∧
    ((reading 0 7).vrdState = .active ∧ (reading 0 7).vrdCnt.toNat < 8 ∧ 0x80 ≤ (0xFF#8).toNat) ∧
    idle.vrdState ≠ .active := by decide

theorem witness_VrdEofTruncatesOrFails : (reading 0 0).vrdState = .active ∧ idle.vrdState ≠ .active := by decide

theorem witness_VrdGetRespondsTheValue :
    ({ idle with vrdState := .done }).vrdState = .done ∧ (reading 0 0).vrdState ≠ .done := by decide

theorem witness_ReaderComputesRd :
    rd [0x80, 0x00, 0x05] = .value 0 2 ∧ rd (List.replicate 9 0x80) = .tooLong ∧
    rd (List.replicate 8 0x80) = .truncated ∧ rd [] = .truncated := by decide

/-- A move of each of the three kinds. -/
theorem witness_ReaderStateMovesOnlyAsTabled :
    (∃ t, exec .vrdStart idle = .next t ∧ t.vrdState ≠ idle.vrdState) ∧
    (∃ t, exec (.vrdByte 0x00) (reading 0 8) = .next t ∧ t.vrdState ≠ (reading 0 8).vrdState) ∧
    (∃ t, exec (.vrdByte 0x80) (reading 0 8) = .next t ∧ t.vrdState ≠ (reading 0 8).vrdState) ∧
    (∃ t, exec .vrdEof (reading 0 1) = .next t ∧ t.vrdState ≠ (reading 0 1).vrdState) :=
  ⟨⟨_, rfl, by decide⟩, ⟨_, rfl, by decide⟩, ⟨_, rfl, by decide⟩, _, rfl, by decide⟩

/-- A failing command, one that ends in OK, and a step that clears a nonzero `STICKY`. -/
theorem witness_StickyKeepsTheFirstError :
    (∃ t r, runCommand ⟨0x0100, 0⟩ { idle with sticky := 0x9 } = .next t ∧ t.flight = some r ∧
      r.status = .error .illegalCommand) ∧
    (∃ t r, runCommand ⟨0x0040, 0⟩ idle = .next t ∧ t.flight = some r ∧ r.status = .ok) ∧
    decode 0x0040#16 0 ≠ .ok .statClr ∧
    (∃ t, step { idle with sticky := 0xC, inputs := [⟨false, true, ⟨0x0041, 0⟩, false⟩] } = .next t ∧ t.sticky ≠ 0xC) :=
  ⟨⟨_, _, rfl, rfl, rfl⟩, ⟨_, _, rfl, rfl, rfl⟩, by decide, _, rfl, by decide⟩

/-- A failure of each kind the statement tells apart. -/
theorem witness_FailingCommandChangesOnlyTheListed :
    (∃ t r, runCommand ⟨0x0022, 0⟩ { idle with vdecCnt := 10 } = .next t ∧ t.flight = some r ∧
      r.status = .error .varintTooLong) ∧
    (∃ t r, runCommand ⟨0x8031, 0⟩ (reading 0 8) = .next t ∧ t.flight = some r ∧ r.status = .error .varintTooLong) ∧
    (∃ t r, runCommand ⟨0x0032, 0⟩ (reading 0 8) = .next t ∧ t.flight = some r ∧ r.status = .error .truncated) :=
  ⟨⟨_, _, rfl, rfl, rfl⟩, ⟨_, _, rfl, rfl, rfl⟩, _, _, rfl, rfl, rfl⟩

/-- The counts where the MORE and the VarintTooLong clauses of the table meet; the count 9 is one no run reaches
(notes/assumptions/12.md). -/
theorem witness_StatusesAreRaisedExactlyAsTabled :
    (let s := reading 0 7
     RegisterInv s ∧ s.vrdState = .active ∧ s.vrdCnt.toNat ≠ 8 ∧
       answer (runCommand ⟨0x8031, 0⟩ s) = some ⟨.more, 0, 0, 8⟩) ∧
    (let s := reading 0 8
     RegisterInv s ∧ s.vrdState = .active ∧ s.vrdCnt.toNat = 8 ∧
       answer (runCommand ⟨0x8031, 0⟩ s) = some ⟨.error .varintTooLong, 0, 0, 0⟩) ∧
    (let s := reading 0 9
     ¬RegisterInv s ∧ s.vrdState = .active ∧ s.vrdCnt.toNat ≠ 8) ∧
    answer (runCommand ⟨0x0022, 0⟩ { idle with vdecCnt := 9 }) = some ⟨.ok, 0, 0, 9⟩ ∧
    answer (runCommand ⟨0x0022, 0⟩ { idle with vdecCnt := 10 }) = some ⟨.error .varintTooLong, 0, 0, 0⟩ := by
  refine ⟨⟨?_, by decide, by decide, by decide⟩, ⟨?_, by decide, by decide, by decide⟩, ⟨?_, by decide, by decide⟩,
    by decide, by decide⟩
  · exact ⟨by decide, by decide, by decide, by decide, by decide, by decide, by decide⟩
  · exact ⟨by decide, by decide, by decide, by decide, by decide, by decide, by decide⟩
  · intro h
    exact absurd (h.active_cnt rfl) (by decide)

theorem witness_RegistersWrittenAreAsTabled :
    ∃ t r, exec .vdecClr { idle with vdecCnt := 3 } = .next t ∧ t.flight = some r ∧ Reg.vrdAcc ∉ writes .vdecClr :=
  ⟨_, _, rfl, rfl, by decide⟩

/-- Two states that agree on what VDEC.FIN reads and differ elsewhere. -/
theorem witness_ResultDependsOnlyOnRegistersRead :
    (∀ g ∈ reads .vdecFin, idle.reg g = ({ idle with crc32Acc := 7, sticky := 0xA }).reg g) ∧
    idle.reg .sticky ≠ ({ idle with crc32Acc := 7, sticky := 0xA }).reg .sticky := by decide

theorem idle_registerInv : RegisterInv idle where
  vdecCnt_le := by decide
  vrdCnt_le := by decide
  active_cnt := by decide
  done_cnt := by decide
  vrdAcc_lt := by decide
  vdecAcc_lt := by decide
  sticky_legal := by decide

theorem witness_StepKeepsTheRegisterInvariants : RegisterInv idle ∧ ∃ t, step idle = .next t := ⟨idle_registerInv, _, rfl⟩

theorem witness_StepKeepsResponsesFormed :
    let s : State := { idle with inputs := [⟨false, true, ⟨0x0010, 300⟩, false⟩] }
    RegisterInv s ∧ ResponsesFormed s ∧ ∃ t, step s = .next t := by
  obtain ⟨h1, h2, h3, h4, h5, h6, h7⟩ := idle_registerInv
  exact ⟨⟨h1, h2, h3, h4, h5, h6, h7⟩, ⟨by simp [idle, State.flight], by simp [idle, State.reset]⟩, _, rfl⟩

theorem witness_RepeatedCommandsLeaveTheState :
    (Instr.vdecFin ∈ [Instr.nop, .crc32Get, .crc64Get, .vdecFin, .vrdGet, .statGet, .vdecClr, .vrdStart, .statClr]) ∧
    (∃ t, exec .vdecFin { idle with vdecCnt := 10 } = .next t) ∧ ∃ t, exec .vrdEof (reading 0 1) = .next t :=
  ⟨by decide, ⟨_, rfl⟩, _, rfl⟩

theorem witness_CommandIsItsTransaction : (0x7FFFFFFFFFFFFFFF : Data).toNat < 2 ^ 63 := by decide

/-- The hypotheses of HandshakeRunIsTheAtomicRun, met by a legal and an illegal command. -/
theorem witness_ClockedRunGivesTheTransactionResult :
    let cmds : List (Command × Nat) := [(⟨0x0010, 300⟩, Config.latency 1), (⟨0x00FF, 0⟩, Config.latency 2)]
    let s : State := { idle with inputs := driveAll cmds ++ [] }
    s.channel = .ready ∧ s.held = none ∧ s.inputs = driveAll cmds ++ [] ∧ waitsLongEnough cmds (s.draws + 1) :=
  witness_HandshakeRunIsTheAtomicRun

/-- 30_encoding.md R68, as notes/assumptions/15.md reads it for `.word` and the pseudo-instructions. -/
theorem test_assemble_case :
    assembleLine "VENC 0x12c".toList = some [⟨0x0010, 300⟩] ∧
    assembleLine ".WORD 0100:0000000000000000".toList = some [⟨0x0100, 0⟩] ∧
    assembleLine "CRC32.Init".toList = some [⟨0x0001, 0⟩] := by decide +kernel

end Sys2Proof.Tests
end

section
/-! Proofs, the registers: what each register write leaves in the other registers, and from it the two columns of the
access table (10_state.md R34). -/

namespace Sys2Proof.Machine

/-- The number a register holds, of the registers alone. -/
def Registers.reg (g : Registers) (r : Reg) : Nat := State.reg { State.reset with toRegisters := g } r

theorem State.reg_eq (s : State) (r : Reg) : s.reg r = s.toRegisters.reg r := by cases r <;> rfl

section
variable (g : Registers) {r : Reg}

theorem Registers.setCrc32Acc_reg (v : BitVec 32) (h : r ≠ .crc32Acc) : (g.setCrc32Acc v).reg r = g.reg r := by
  cases r with
  | crc32Acc => exact absurd rfl h
  | _ => rfl

theorem Registers.setCrc64Acc_reg (v : BitVec 64) (h : r ≠ .crc64Acc) : (g.setCrc64Acc v).reg r = g.reg r := by
  cases r with
  | crc64Acc => exact absurd rfl h
  | _ => rfl

theorem Registers.setVdecAcc_reg (v : VarintAcc) (h : r ≠ .vdecAcc) : (g.setVdecAcc v).reg r = g.reg r := by
  cases r with
  | vdecAcc => exact absurd rfl h
  | _ => rfl

theorem Registers.setVdecCnt_reg (v : Nibble) (h : r ≠ .vdecCnt) : (g.setVdecCnt v).reg r = g.reg r := by
  cases r with
  | vdecCnt => exact absurd rfl h
  | _ => rfl

theorem Registers.setVdecStop_reg (v : Bool) (h : r ≠ .vdecStop) : (g.setVdecStop v).reg r = g.reg r := by
  cases r with
  | vdecStop => exact absurd rfl h
  | _ => rfl

theorem Registers.setVrdAcc_reg (v : VarintAcc) (h : r ≠ .vrdAcc) : (g.setVrdAcc v).reg r = g.reg r := by
  cases r with
  | vrdAcc => exact absurd rfl h
  | _ => rfl

theorem Registers.setVrdCnt_reg (v : Nibble) (h : r ≠ .vrdCnt) : (g.setVrdCnt v).reg r = g.reg r := by
  cases r with
  | vrdCnt => exact absurd rfl h
  | _ => rfl

theorem Registers.setVrdState_reg (v : VrdState) (h : r ≠ .vrdState) : (g.setVrdState v).reg r = g.reg r := by
  cases r with
  | vrdState => exact absurd rfl h
  | _ => rfl

theorem Registers.setSticky_reg (v : Nibble) (h : r ≠ .sticky) : (g.setSticky v).reg r = g.reg r := by
  cases r with
  | sticky => exact absurd rfl h
  | _ => rfl

theorem Registers.fail_reg (e : ErrorKind) (h : r ≠ .sticky) : (g.fail e).regs.reg r = g.reg r :=
  g.setSticky_reg _ h

theorem Registers.pushByte_reg (b : Byte) (ha : r ≠ .vdecAcc) (hc : r ≠ .vdecCnt) (hp : r ≠ .vdecStop) :
    (g.pushByte b).reg r = g.reg r := by
  simp only [Registers.pushByte]
  split_ifs <;> simp [setVdecAcc_reg, setVdecCnt_reg, setVdecStop_reg, ha, hc, hp]

/-- A command that does one of two effects leaves a register alone where both do. -/
theorem ite_regs_reg {c : Prop} [Decidable c] {e f : Effect} (he : e.regs.reg r = g.reg r)
    (hf : f.regs.reg r = g.reg r) : (if c then e else f).regs.reg r = g.reg r := by
  split
  · exact he
  · exact hf

theorem effectVrdByte_reg (b : Byte) (ha : r ≠ .vrdAcc) (hc : r ≠ .vrdCnt) (ht : r ≠ .vrdState) (hs : r ≠ .sticky) :
    (effectVrdByte b g).regs.reg r = g.reg r := by
  simp only [effectVrdByte]
  split_ifs <;>
    simp [Registers.setVrdAcc_reg, Registers.setVrdCnt_reg, Registers.setVrdState_reg, Registers.setSticky_reg, ha, hc,
      ht, hs]

/-- A register outside the write column of the access table, other than `STICKY`, is left alone. -/
theorem effect_reg_of_not_written {i : Instr} (hw : r ∉ writes i) (hs : r ≠ .sticky) :
    (effect i g).regs.reg r = g.reg r := by
  cases i with
  | nop | crc32Get | crc64Get | statGet => rfl
  | crc32Seed seed => exact g.setCrc32Acc_reg _ (by simpa [writes] using hw)
  | crc64Seed seed => exact g.setCrc64Acc_reg _ (by simpa [writes] using hw)
  | crc32Upd k d => exact ite_regs_reg g (g.setCrc32Acc_reg _ (by simpa [writes] using hw)) (g.fail_reg _ hs)
  | crc64Upd k d => exact ite_regs_reg g (g.setCrc64Acc_reg _ (by simpa [writes] using hw)) (g.fail_reg _ hs)
  | venc v => exact ite_regs_reg g (g.fail_reg _ hs) rfl
  | vdecClr =>
    obtain ⟨ha, hc, hp⟩ : r ≠ .vdecAcc ∧ r ≠ .vdecCnt ∧ r ≠ .vdecStop := by simpa [writes] using hw
    simp [effect, effectVdecClr, Registers.setVdecAcc_reg, Registers.setVdecCnt_reg, Registers.setVdecStop_reg, ha, hc,
      hp]
  | vdecPush b =>
    obtain ⟨ha, hc, hp⟩ : r ≠ .vdecAcc ∧ r ≠ .vdecCnt ∧ r ≠ .vdecStop := by simpa [writes] using hw
    exact g.pushByte_reg b ha hc hp
  | vdecFin => exact ite_regs_reg g (g.fail_reg _ hs) rfl
  | vrdStart =>
    obtain ⟨ha, hc, ht⟩ : r ≠ .vrdAcc ∧ r ≠ .vrdCnt ∧ r ≠ .vrdState := by simpa [writes] using hw
    simp [effect, effectVrdStart, Registers.setVrdAcc_reg, Registers.setVrdCnt_reg, Registers.setVrdState_reg, ha, hc,
      ht]
  | vrdByte b =>
    obtain ⟨ha, hc, ht⟩ : r ≠ .vrdAcc ∧ r ≠ .vrdCnt ∧ r ≠ .vrdState := by simpa [writes] using hw
    exact effectVrdByte_reg g b ha hc ht hs
  | vrdEof =>
    have ht : r ≠ .vrdState := by simpa [writes] using hw
    exact ite_regs_reg g ((Registers.fail_reg _ _ hs).trans (g.setVrdState_reg _ ht)) (g.fail_reg _ hs)
  | vrdGet => exact ite_regs_reg g rfl (g.fail_reg _ hs)
  | statClr => exact g.setSticky_reg _ hs

end

end Sys2Proof.Machine
end

section
/-! Proofs, `STICKY`: what a command does to the sticky record (60_exceptions.md R162), said once. -/

namespace Sys2Proof.Machine

/-- The effect fails and makes the sticky update, or does not fail and leaves `STICKY` alone. -/
def RecordsError (g : Registers) (f : Effect) : Prop :=
  (∃ e, f.rsp.status = .error e ∧ f.regs.sticky = stickyUpdate g.sticky e) ∨
  ((∀ e, f.rsp.status ≠ .error e) ∧ f.regs.sticky = g.sticky)

theorem RecordsError.fail {g h : Registers} (e : ErrorKind) (hs : h.sticky = g.sticky) : RecordsError g (h.fail e) :=
  .inl ⟨e, rfl, congrArg (stickyUpdate · e) hs⟩

theorem RecordsError.respond {g h : Registers} {r : Response} (hs : h.sticky = g.sticky)
    (hr : ∀ e, r.status ≠ .error e) : RecordsError g (h.respond r) :=
  .inr ⟨hr, hs⟩

theorem RecordsError.ite {g : Registers} {c : Prop} [Decidable c] {e f : Effect} (he : RecordsError g e)
    (hf : RecordsError g f) : RecordsError g (if c then e else f) := by
  split
  · exact he
  · exact hf

@[simp] theorem Registers.pushByte_sticky (g : Registers) (b : Byte) : (g.pushByte b).sticky = g.sticky :=
  BitVec.eq_of_toNat_eq (g.pushByte_reg (r := .sticky) b (by decide) (by decide) (by decide))

/-- Every command but STAT.CLR records its error in `STICKY`, and does nothing else to it. -/
theorem effect_recordsError {i : Instr} (g : Registers) (h : i ≠ .statClr) : RecordsError g (effect i g) := by
  cases i with
  | nop | crc32Seed | crc32Get | crc64Seed | crc64Get | vdecClr | vrdStart | statGet => exact .respond rfl nofun
  | vdecPush b => exact .respond (g.pushByte_sticky b) nofun
  | crc32Upd | crc64Upd => exact .ite (.respond rfl nofun) (.fail _ rfl)
  | venc | vdecFin => exact .ite (.fail _ rfl) (.respond rfl nofun)
  | vrdByte b =>
    exact .ite (.ite (.respond rfl nofun) (.ite (.fail _ rfl) (.respond rfl nofun))) (.fail _ rfl)
  | vrdEof => exact .ite (.fail _ rfl) (.fail _ rfl)
  | vrdGet => exact .ite (.respond rfl nofun) (.fail _ rfl)
  | statClr => exact absurd rfl h

end Sys2Proof.Machine
end

section
/-! Proofs: the access table (10_state.md R34). -/

namespace Sys2Proof.Machine

/-- The number of a register determines its field. -/
theorem Registers.reg_inj {g g' : Registers} :
    (g.reg .crc32Acc = g'.reg .crc32Acc ↔ g.crc32Acc = g'.crc32Acc) ∧
    (g.reg .crc64Acc = g'.reg .crc64Acc ↔ g.crc64Acc = g'.crc64Acc) ∧
    (g.reg .vdecAcc = g'.reg .vdecAcc ↔ g.vdecAcc = g'.vdecAcc) ∧
    (g.reg .vdecCnt = g'.reg .vdecCnt ↔ g.vdecCnt = g'.vdecCnt) ∧
    (g.reg .vdecStop = g'.reg .vdecStop ↔ g.vdecStop = g'.vdecStop) ∧
    (g.reg .vrdAcc = g'.reg .vrdAcc ↔ g.vrdAcc = g'.vrdAcc) ∧
    (g.reg .vrdCnt = g'.reg .vrdCnt ↔ g.vrdCnt = g'.vrdCnt) ∧
    (g.reg .vrdState = g'.reg .vrdState ↔ g.vrdState = g'.vrdState) ∧
    (g.reg .sticky = g'.reg .sticky ↔ g.sticky = g'.sticky) :=
  Machine.reg_inj

/-- Settles O51: every register but `STICKY` by the frame of the effect, `STICKY` by what an effect records in it. -/
theorem registersWrittenAreAsTabled : Obligations.RegistersWrittenAreAsTabled := by
  intro i s t r h hr
  obtain ⟨hheld, hinputs, hresponses, -, -⟩ := exec_host h
  refine ⟨fun g hw hsticky => ?_, hheld, hinputs, hresponses⟩
  rw [exec_eq] at h
  cases h
  cases hr
  rw [State.reg_eq, State.reg_eq, State.after_toRegisters]
  by_cases hg : g = .sticky
  · subst hg
    have hi : i ≠ .statClr := by
      rintro rfl
      exact hw (by decide)
    rcases effect_recordsError s.toRegisters hi with ⟨e, he, -⟩ | ⟨-, hkept⟩
    · exact absurd he (hsticky rfl e)
    · exact congrArg BitVec.toNat hkept
  · exact effect_reg_of_not_written _ hw hg

/-- What a command answers and writes is a function of the registers it reads: with those replaced by equal ones, both
sides take the same branch of the effect. -/
theorem effect_congr_of_reads {i : Instr} {g g' : Registers} (h : ∀ r ∈ reads i, g.reg r = g'.reg r) :
    (effect i g).rsp = (effect i g').rsp ∧ ∀ r ∈ writes i, (effect i g).regs.reg r = (effect i g').regs.reg r := by
  cases i with
  | nop => exact ⟨rfl, nofun⟩
  | venc v =>
    refine ⟨?_, nofun⟩
    simp only [effect, effectVenc]
    split_ifs <;> rfl
  | crc32Seed | crc64Seed | vdecClr | vrdStart | statClr =>
    refine ⟨rfl, ?_⟩
    simp [writes, Registers.reg_inj, effect, effectCrc32Seed, effectCrc64Seed, effectVdecClr, effectVrdStart,
      effectStatClr]
  | crc32Upd k d =>
    have hacc : g.crc32Acc = g'.crc32Acc := by simpa [reads, Registers.reg_inj] using h
    simp only [effect, effectCrc32Upd, hacc]
    split_ifs <;> simp [writes, Registers.reg_inj, hacc]
  | crc64Upd k d =>
    have hacc : g.crc64Acc = g'.crc64Acc := by simpa [reads, Registers.reg_inj] using h
    simp only [effect, effectCrc64Upd, hacc]
    split_ifs <;> simp [writes, Registers.reg_inj, hacc]
  | crc32Get =>
    have hacc : g.crc32Acc = g'.crc32Acc := by simpa [reads, Registers.reg_inj] using h
    exact ⟨by simp [effect, effectCrc32Get, hacc], nofun⟩
  | crc64Get =>
    have hacc : g.crc64Acc = g'.crc64Acc := by simpa [reads, Registers.reg_inj] using h
    exact ⟨by simp [effect, effectCrc64Get, hacc], nofun⟩
  | vdecPush b =>
    obtain ⟨hacc, hcnt, hstop⟩ : g.vdecAcc = g'.vdecAcc ∧ g.vdecCnt = g'.vdecCnt ∧ g.vdecStop = g'.vdecStop := by
      simpa [reads, Registers.reg_inj] using h
    simp only [effect, effectVdecPush, Registers.pushByte, hacc, hcnt, hstop]
    split_ifs <;> simp [writes, Registers.reg_inj, hacc, hstop]
  | vdecFin =>
    obtain ⟨hacc, hcnt⟩ : g.vdecAcc = g'.vdecAcc ∧ g.vdecCnt = g'.vdecCnt := by
      simpa [reads, Registers.reg_inj] using h
    refine ⟨?_, nofun⟩
    simp only [effect, effectVdecFin, hacc, hcnt]
    split_ifs <;> rfl
  | vrdByte b =>
    obtain ⟨hacc, hcnt, hstate⟩ : g.vrdAcc = g'.vrdAcc ∧ g.vrdCnt = g'.vrdCnt ∧ g.vrdState = g'.vrdState := by
      simpa [reads, Registers.reg_inj] using h
    simp only [effect, effectVrdByte, hacc, hcnt, hstate]
    split_ifs <;> simp [writes, Registers.reg_inj, hacc, hcnt, hstate]
  | vrdEof =>
    have hstate : g.vrdState = g'.vrdState := by simpa [reads, Registers.reg_inj] using h
    simp only [effect, effectVrdEof, hstate]
    split_ifs <;> simp [writes, Registers.reg_inj, hstate]
  | vrdGet =>
    obtain ⟨hacc, hcnt, hstate⟩ : g.vrdAcc = g'.vrdAcc ∧ g.vrdCnt = g'.vrdCnt ∧ g.vrdState = g'.vrdState := by
      simpa [reads, Registers.reg_inj] using h
    refine ⟨?_, nofun⟩
    simp only [effect, effectVrdGet, hacc, hcnt, hstate]
    split_ifs <;> rfl
  | statGet =>
    obtain ⟨hcnt, hstop, hvrd, hstate, hsticky⟩ : g.vdecCnt = g'.vdecCnt ∧ g.vdecStop = g'.vdecStop ∧
        g.vrdCnt = g'.vrdCnt ∧ g.vrdState = g'.vrdState ∧ g.sticky = g'.sticky := by
      simpa [reads, Registers.reg_inj] using h
    exact ⟨by simp [effect, effectStatGet, statusView, hcnt, hstop, hvrd, hstate, hsticky], nofun⟩

/-- Settles O52: the congruence of the effect, lifted to the clocked states. -/
theorem resultDependsOnlyOnRegistersRead : Obligations.ResultDependsOnlyOnRegistersRead := by
  intro i s s' h
  obtain ⟨hrsp, hwrites⟩ := effect_congr_of_reads (i := i) (g := s.toRegisters) (g' := s'.toRegisters) fun r hr => by
    rw [← State.reg_eq, ← State.reg_eq]
    exact h r hr
  refine ⟨_, _, exec_eq i s, exec_eq i s', congrArg some hrsp, fun r hr => ?_⟩
  rw [State.reg_eq, State.reg_eq]
  exact hwrites r hr

end Sys2Proof.Machine
end

section
/-! Proofs: the checksums. The step through the table is the step bit by bit (41_crc32.md R112, 42_crc64.md R132), so an
accumulator is the bitwise CRC of what has been absorbed. -/

namespace Sys2Proof.Machine

section
variable {n : Nat} (p : BitVec n)

theorem ushiftRight_shiftLeft_ushiftRight (x : BitVec n) (k : Nat) : ((x >>> k) <<< k) >>> k = x >>> k := by
  apply BitVec.eq_of_getLsbD_eq
  intro i hi
  by_cases h : k + i < n
  · simp [h]
  · simp [h, BitVec.getLsbD_of_ge x (k + i) (by omega)]

/-- The rest of a register above its low byte is shifted out unchanged; only the low byte meets the polynomial. -/
theorem crcShifts_eight (x : BitVec n) : crcShifts p 8 x = crcTable p (x.setWidth 8) ^^^ (x >>> 8) := by
  have hlow : ∀ i < 8, ((x >>> 8) <<< 8).getLsbD i = false := fun i hi => by simp [hi]
  calc crcShifts p 8 x
      = crcShifts p 8 ((x.setWidth 8).setWidth n) ^^^ crcShifts p 8 ((x >>> 8) <<< 8) := by
        rw [← crcShifts_xor, ← low_byte_xor_rest]
    _ = crcTable p (x.setWidth 8) ^^^ (x >>> 8) := by
        rw [crcShifts_of_low_zero p 8 _ hlow, ushiftRight_shiftLeft_ushiftRight, crcTable]

/-- The step through the table is the step bit by bit, at every width. -/
theorem crcStep_eq_bitwise (c : BitVec n) (m : Byte) : crcStep p c m = crcStepBitwise p c m := by
  have hm : (m.setWidth n) >>> 8 = 0#n := by
    apply BitVec.eq_of_getLsbD_eq
    simp
  rw [crcStepBitwise, crcShifts_eight, BitVec.ushiftRight_xor_distrib, hm, BitVec.xor_zero, crcStep]

theorem crc_eq_bitwise (seed : BitVec n) (bytes : List Byte) : crc p seed bytes = crcBitwise p seed bytes := by
  have h : crcStep p = crcStepBitwise p := funext₂ (crcStep_eq_bitwise p)
  rw [crc, crcBitwise, h]

/-- A run of instructions each of which absorbs its bytes into an accumulator absorbs them all, in order. -/
theorem execAll_absorbs {acc : State → BitVec n} {absorbed : Instr → List Byte} (prog : List Instr) (s : State)
    (h : ∀ i ∈ prog, ∀ s t, exec i s = .next t → acc t = crcBitwise p (acc s) (absorbed i)) :
    ∃ t, execAll prog s = .next t ∧ acc t = crcBitwise p (acc s) (prog.flatMap absorbed) := by
  induction prog generalizing s with
  | nil => exact ⟨s, rfl, (crcBitwise_nil _ _).symm⟩
  | cons i rest ih =>
    obtain ⟨u, hu⟩ := exec_next i s
    obtain ⟨t, ht, hacc⟩ := ih u fun j hj => h j (List.mem_cons_of_mem _ hj)
    refine ⟨t, (execAll_append [i] rest s u (by simp [execAll, hu])).trans ht, ?_⟩
    rw [hacc, h i List.mem_cons_self s u hu, List.flatMap_cons, crcBitwise_append]

end

/-- The commands by what they do to `CRC32_ACC`. -/
theorem crc32_cases (i : Instr) :
    (∃ seed, i = .crc32Seed seed) ∨ (∃ k d, i = .crc32Upd k d) ∨ (Reg.crc32Acc ∉ writes i ∧ absorbed32 i = []) := by
  cases i <;> simp [writes, absorbed32]

/-- The commands by what they do to `CRC64_ACC`. -/
theorem crc64_cases (i : Instr) :
    (∃ seed, i = .crc64Seed seed) ∨ (∃ k d, i = .crc64Upd k d) ∨ (Reg.crc64Acc ∉ writes i ∧ absorbed64 i = []) := by
  cases i <;> simp [writes, absorbed64]

theorem effectCrc32Upd_crc32Acc {k : Byte} (d : Data) (g : Registers) (h : k.toNat ≤ 8) :
    (effectCrc32Upd k d g).regs.crc32Acc = crcBitwise poly32 g.crc32Acc (lanes d k.toNat) := by
  simp [effectCrc32Upd, h, crc32, crc_eq_bitwise]

theorem effectCrc64Upd_crc64Acc {k : Byte} (d : Data) (g : Registers) (h : k.toNat ≤ 8) :
    (effectCrc64Upd k d g).regs.crc64Acc = crcBitwise poly64 g.crc64Acc (lanes d k.toNat) := by
  simp [effectCrc64Upd, h, crc64, crc_eq_bitwise]

theorem exec_crc32Acc {i : Instr} {s t : State} (hw : i.WellFormed) (hs : ∀ seed, i ≠ .crc32Seed seed)
    (h : exec i s = .next t) : t.crc32Acc = crcBitwise poly32 s.crc32Acc (absorbed32 i) := by
  rw [exec_eq] at h
  cases h
  rcases crc32_cases i with ⟨seed, rfl⟩ | ⟨k, d, rfl⟩ | ⟨hwrites, habsorbed⟩
  · exact absurd rfl (hs seed)
  · exact effectCrc32Upd_crc32Acc d _ (of_decide_eq_true hw)
  · rw [habsorbed, crcBitwise_nil]
    exact BitVec.eq_of_toNat_eq (effect_reg_of_not_written _ hwrites (by decide))

theorem exec_crc64Acc {i : Instr} {s t : State} (hw : i.WellFormed) (hs : ∀ seed, i ≠ .crc64Seed seed)
    (h : exec i s = .next t) : t.crc64Acc = crcBitwise poly64 s.crc64Acc (absorbed64 i) := by
  rw [exec_eq] at h
  cases h
  rcases crc64_cases i with ⟨seed, rfl⟩ | ⟨k, d, rfl⟩ | ⟨hwrites, habsorbed⟩
  · exact absurd rfl (hs seed)
  · exact effectCrc64Upd_crc64Acc d _ (of_decide_eq_true hw)
  · rw [habsorbed, crcBitwise_nil]
    exact BitVec.eq_of_toNat_eq (effect_reg_of_not_written _ hwrites (by decide))

/-- Settles O26, by induction on the list: each instruction absorbs its own bytes. -/
theorem crc32AccIsTheCrcOfAllAbsorbed : Obligations.Crc32AccIsTheCrcOfAllAbsorbed := by
  intro prog s h
  refine execAll_absorbs poly32 (acc := fun s => s.crc32Acc) prog s fun i hi _ _ hexec => ?_
  obtain ⟨hw, hs⟩ := h i hi
  exact exec_crc32Acc hw hs hexec

/-- Settles O27, by induction on the list, as for CRC-32. -/
theorem crc64AccIsTheCrcOfAllAbsorbed : Obligations.Crc64AccIsTheCrcOfAllAbsorbed := by
  intro prog s h
  refine execAll_absorbs poly64 (acc := fun s => s.crc64Acc) prog s fun i hi _ _ hexec => ?_
  obtain ⟨hw, hs⟩ := h i hi
  exact exec_crc64Acc hw hs hexec

/-- Settles O25: the values are computed. -/
theorem knownCrcValues : Obligations.KnownCrcValues := by
  unfold Obligations.KnownCrcValues
  decide +kernel

end Sys2Proof.Machine
end

section
/-! Proofs: an accepted command is its transaction (20_memory.md R44), and what a step does to the registers. -/

namespace Sys2Proof.Machine

/-- A command on the clocked machine is its transaction on the registers: everything it can do, said once. -/
theorem runCommand_eq (c : Command) (s : State) : runCommand c s = .next (s.after (transaction c s.toRegisters)) := by
  unfold runCommand transaction
  split
  · exact exec_eq _ s
  · rfl

/-- A value the encoding admits is not kept. -/
theorem effectVenc_regs {v : Data} (g : Registers) (h : v.toNat < 2 ^ 63) : (effectVenc v g).regs = g := by
  rw [effectVenc, if_neg (Nat.not_le.mpr h), Registers.respond_regs]

/-- Settles O58: the transaction of a command is all that reaches the clocked state, by the equation of `runCommand`. -/
theorem commandIsItsTransaction : Obligations.CommandIsItsTransaction :=
  ⟨runCommand_eq, fun _ g h => effectVenc_regs g h⟩

/-- A transaction is the effect of an instruction, or the failure of an illegal command. -/
theorem transaction_cases (c : Command) (g : Registers) :
    (∃ i, decode c.word c.data = .ok i ∧ transaction c g = effect i g) ∨ transaction c g = g.fail .illegalCommand := by
  unfold transaction
  split
  next i hi => exact .inl ⟨i, hi, rfl⟩
  next => exact .inr rfl

/-- What a completed step does to the registers: reset, the transaction of an accepted command, or nothing. -/
theorem step_toRegisters {s t : State} (h : step s = .next t) :
    (s.drives.rst = true ∧ t.toRegisters = Registers.reset) ∨
    (s.accepts s.drives = true ∧ t.toRegisters = (transaction s.drives.cmd s.toRegisters).regs) ∨
    t.toRegisters = s.toRegisters := by
  rcases step_cases s with ⟨hrst, hs⟩ | ⟨-, -, hs⟩ | ⟨-, -, hacc, hs⟩ | ⟨-, -, -, -, hs⟩ | ⟨-, -, -, -, hs⟩ <;>
    rw [hs] at h
  · cases h
    exact .inl ⟨hrst, rfl⟩
  · cases h
  · rw [runCommand_eq] at h
    cases h
    exact .inr (.inl ⟨hacc, rfl⟩)
  · cases h
    exact .inr (.inr rfl)
  · cases h
    exact .inr (.inr rfl)

end Sys2Proof.Machine
end

section
/-! Proofs: the invariants of every reachable state (10_state.md R33), in three parts that change by different commands. -/

namespace Sys2Proof.Machine

/-- The part of the buffer decoder. -/
structure VdecInv (g : Registers) : Prop where
  cnt_le : g.vdecCnt.toNat ≤ 10
  acc_lt : g.vdecAcc.toNat < 2 ^ (7 * min g.vdecCnt.toNat 9)

/-- The part of the stream reader. -/
structure VrdInv (g : Registers) : Prop where
  cnt_le : g.vrdCnt.toNat ≤ 9
  active_cnt : g.vrdState = .active → g.vrdCnt.toNat ≤ 8
  done_cnt : g.vrdState = .done → 1 ≤ g.vrdCnt.toNat ∧ g.vrdCnt.toNat ≤ 9
  acc_lt : g.vrdAcc.toNat < 2 ^ (7 * g.vrdCnt.toNat)

/-- The legal values of `STICKY`: none, or the code of an error. -/
abbrev StickyLegal (v : Nibble) : Prop := v ∈ [0x0, 0x8, 0x9, 0xA, 0xB, (0xC : Nibble)]

/-- The three parts together, on the registers. -/
structure RegistersInv (g : Registers) : Prop where
  vdec : VdecInv g
  vrd : VrdInv g
  sticky : StickyLegal g.sticky

theorem registerInv_iff (s : State) : RegisterInv s ↔ RegistersInv s.toRegisters :=
  ⟨fun ⟨h1, h2, h3, h4, h5, h6, h7⟩ => ⟨⟨h1, h6⟩, ⟨h2, h3, h4, h5⟩, h7⟩,
   fun ⟨⟨h1, h6⟩, ⟨h2, h3, h4, h5⟩, h7⟩ => ⟨h1, h2, h3, h4, h5, h6, h7⟩⟩

theorem registersInv_reset : RegistersInv Registers.reset where
  vdec := ⟨by decide, by decide⟩
  vrd := ⟨by decide, by decide, by decide, by decide⟩
  sticky := by decide

/-- Settles O53: each part is computed; there is no response yet. -/
theorem resetMeetsTheInvariants : Obligations.ResetMeetsTheInvariants :=
  ⟨(registerInv_iff _).mpr registersInv_reset, nofun, nofun⟩

/-! ### The buffer decoder -/

/-- The commands by what they do to the buffer decoder. -/
theorem vdec_cases (i : Instr) :
    i = .vdecClr ∨ (∃ b, i = .vdecPush b) ∨ (Reg.vdecAcc ∉ writes i ∧ Reg.vdecCnt ∉ writes i) := by
  cases i <;> simp [writes]

theorem pushByte_vdecCnt (g : Registers) (b : Byte) :
    (g.pushByte b).vdecCnt = count (min (g.vdecCnt.toNat + 1) 10) := by
  simp only [Registers.pushByte]
  split_ifs <;> rfl

/-- A pushed byte is dropped, or accumulated at a position up to 8. -/
theorem pushByte_vdecAcc (g : Registers) (b : Byte) :
    (g.pushByte b).vdecAcc = g.vdecAcc ∨
    (g.vdecCnt.toNat ≤ 8 ∧ (g.pushByte b).vdecAcc = g.vdecAcc ||| group b g.vdecCnt.toNat) := by
  simp only [Registers.pushByte]
  split_ifs with _ _ h
  · exact .inl rfl
  · exact .inl rfl
  · exact .inr ⟨h, rfl⟩
  · exact .inl rfl

theorem vdecInv_pushByte {g : Registers} (b : Byte) (h : VdecInv g) : VdecInv (g.pushByte b) := by
  obtain ⟨hcnt, hacc⟩ := h
  have hcount : (g.pushByte b).vdecCnt.toNat = min (g.vdecCnt.toNat + 1) 10 := by
    rw [pushByte_vdecCnt, count_toNat (by omega)]
  refine ⟨by omega, ?_⟩
  rw [hcount]
  rcases pushByte_vdecAcc g b with hkept | ⟨hi, hadded⟩
  · rw [hkept]
    exact hacc.trans_le (Nat.pow_le_pow_right (by decide) (by omega))
  · rw [hadded, or_group _ _ hi, show min (min (g.vdecCnt.toNat + 1) 10) 9 = g.vdecCnt.toNat + 1 by omega]
    exact withGroup_lt b (by rwa [Nat.min_eq_left (by omega)] at hacc)

theorem VdecInv.of_eq {g g' : Registers} (h : VdecInv g) (hacc : g'.vdecAcc = g.vdecAcc)
    (hcnt : g'.vdecCnt = g.vdecCnt) : VdecInv g' :=
  ⟨hcnt ▸ h.cnt_le, hacc ▸ hcnt ▸ h.acc_lt⟩

theorem effect_vdecInv (i : Instr) {g : Registers} (h : VdecInv g) : VdecInv (effect i g).regs := by
  rcases vdec_cases i with rfl | ⟨b, rfl⟩ | ⟨hacc, hcnt⟩
  · exact ⟨Nat.zero_le _, Nat.two_pow_pos _⟩
  · exact vdecInv_pushByte b h
  · exact h.of_eq (BitVec.eq_of_toNat_eq (effect_reg_of_not_written g hacc (by decide)))
      (BitVec.eq_of_toNat_eq (effect_reg_of_not_written g hcnt (by decide)))

/-! ### The stream reader -/

/-- The commands by what they do to the stream reader. -/
theorem vrd_cases (i : Instr) :
    i = .vrdStart ∨ (∃ b, i = .vrdByte b) ∨ i = .vrdEof ∨
    (Reg.vrdAcc ∉ writes i ∧ Reg.vrdCnt ∉ writes i ∧ Reg.vrdState ∉ writes i) := by
  cases i <;> simp [writes]

theorem effectVrdByte_of_active {g : Registers} (b : Byte) (h : g.vrdState = .active) :
    (effectVrdByte b g).regs.vrdAcc = g.vrdAcc ||| group b g.vrdCnt.toNat ∧
    (effectVrdByte b g).regs.vrdCnt = count (g.vrdCnt.toNat + 1) ∧
    (effectVrdByte b g).regs.vrdState =
      if continuation b = false then .done else if g.vrdCnt.toNat + 1 = 9 then .error else .active := by
  simp only [effectVrdByte, h, if_true]
  split_ifs <;> simp [h]

theorem effectVrdByte_of_not_active {g : Registers} (b : Byte) (h : g.vrdState ≠ .active) :
    effectVrdByte b g = g.fail .sequenceError := if_neg h

theorem VrdInv.of_eq {g g' : Registers} (h : VrdInv g) (hacc : g'.vrdAcc = g.vrdAcc) (hcnt : g'.vrdCnt = g.vrdCnt)
    (hstate : g'.vrdState = g.vrdState) : VrdInv g' := by
  obtain ⟨hle, hactive, hdone, hlt⟩ := h
  exact ⟨hcnt ▸ hle, by rwa [hstate, hcnt], by rwa [hstate, hcnt], by rwa [hacc, hcnt]⟩

theorem vrdInv_fail {g : Registers} (e : ErrorKind) (h : VrdInv g) : VrdInv (g.fail e).regs := h.of_eq rfl rfl rfl

theorem vrdInv_effectVrdByte {g : Registers} (b : Byte) (h : VrdInv g) : VrdInv (effectVrdByte b g).regs := by
  by_cases hstate : g.vrdState = .active
  · obtain ⟨hacc, hcnt, hnext⟩ := effectVrdByte_of_active b hstate
    have hi := h.active_cnt hstate
    have hcount : (effectVrdByte b g).regs.vrdCnt.toNat = g.vrdCnt.toNat + 1 := by
      rw [hcnt, count_toNat (by omega)]
    refine ⟨by omega, fun hactive => ?_, fun _ => by omega, ?_⟩
    · have hne : g.vrdCnt.toNat + 1 ≠ 9 := by
        intro h9
        rw [hnext, if_pos h9] at hactive
        split at hactive <;> cases hactive
      omega
    · rw [hcount, hacc, or_group _ _ hi]
      exact withGroup_lt b h.acc_lt
  · rw [effectVrdByte_of_not_active b hstate]
    exact vrdInv_fail _ h

theorem vrdInv_effectVrdEof {g : Registers} (h : VrdInv g) : VrdInv (effectVrdEof g).regs := by
  unfold effectVrdEof
  split
  · exact vrdInv_fail _ ⟨h.cnt_le, nofun, nofun, h.acc_lt⟩
  · exact vrdInv_fail _ h

theorem Registers.vrdState_eq_of_reg {g g' : Registers} (h : g.reg .vrdState = g'.reg .vrdState) :
    g.vrdState = g'.vrdState := by
  simpa only [Registers.reg_inj] using h

theorem effect_vrdInv (i : Instr) {g : Registers} (h : VrdInv g) : VrdInv (effect i g).regs := by
  rcases vrd_cases i with rfl | ⟨b, rfl⟩ | rfl | ⟨hacc, hcnt, hstate⟩
  · exact ⟨Nat.zero_le _, fun _ => Nat.zero_le _, nofun, Nat.one_pos⟩
  · exact vrdInv_effectVrdByte b h
  · exact vrdInv_effectVrdEof h
  · exact h.of_eq (BitVec.eq_of_toNat_eq (effect_reg_of_not_written g hacc (by decide)))
      (BitVec.eq_of_toNat_eq (effect_reg_of_not_written g hcnt (by decide)))
      (Registers.vrdState_eq_of_reg (effect_reg_of_not_written g hstate (by decide)))

/-! ### `STICKY`, and the whole -/

theorem stickyLegal_update {v : Nibble} (e : ErrorKind) (h : StickyLegal v) : StickyLegal (stickyUpdate v e) := by
  unfold stickyUpdate
  split
  · cases e <;> decide
  · exact h

theorem effect_stickyLegal (i : Instr) {g : Registers} (h : StickyLegal g.sticky) :
    StickyLegal (effect i g).regs.sticky := by
  by_cases hi : i = .statClr
  · subst hi
    exact List.mem_cons_self
  · rcases effect_recordsError g hi with ⟨e, -, hupdate⟩ | ⟨-, hkept⟩
    · exact hupdate ▸ stickyLegal_update e h
    · exact hkept ▸ h

theorem effect_registersInv (i : Instr) {g : Registers} (h : RegistersInv g) : RegistersInv (effect i g).regs :=
  ⟨effect_vdecInv i h.vdec, effect_vrdInv i h.vrd, effect_stickyLegal i h.sticky⟩

theorem transaction_registersInv (c : Command) {g : Registers} (h : RegistersInv g) :
    RegistersInv (transaction c g).regs := by
  rcases transaction_cases c g with ⟨i, -, hi⟩ | hfail
  · exact hi ▸ effect_registersInv i h
  · rw [hfail]
    exact ⟨h.vdec.of_eq rfl rfl, vrdInv_fail _ h.vrd, stickyLegal_update _ h.sticky⟩

/-- Settles O54: a step resets the registers, runs a transaction on them or leaves them alone, and each keeps the three
parts of the invariants. -/
theorem stepKeepsTheRegisterInvariants : Obligations.StepKeepsTheRegisterInvariants := by
  intro s t h hstep
  rw [registerInv_iff] at h ⊢
  rcases step_toRegisters hstep with ⟨-, hreset⟩ | ⟨-, hrun⟩ | hkept
  · exact hreset ▸ registersInv_reset
  · exact hrun ▸ transaction_registersInv _ h
  · exact hkept ▸ h

end Sys2Proof.Machine
end

section
/-! Proofs, the ports: what the host's hold and the block's place in the handshake say of an edge, and from them the step
at an edge that accepts, takes or waits (20_memory.md R42 to R44). -/

namespace Sys2Proof.Machine

theorem accepts_iff (s : State) (p : PortIn) :
    s.accepts p = true ↔ p.rst = false ∧ s.cmdReady = true ∧ p.cmdValid = true := by
  simp [State.accepts, and_assoc]

theorem takes_iff (s : State) (p : PortIn) :
    s.takes p = true ↔ p.rst = false ∧ s.rspValid = true ∧ p.rspReady = true := by
  simp [State.takes, and_assoc]

/-- A hold is broken by withdrawing the held command or by presenting another one. -/
theorem breaksHold_iff (s : State) (p : PortIn) :
    s.breaksHold p = true ↔ ∃ c, s.held = some c ∧ ¬(p.cmdValid = true ∧ p.cmd = c) := by
  unfold State.breaksHold
  cases s.held <;> simp [imp_iff_not_or]

theorem breaksHold_of_held_none {s : State} (h : s.held = none) (p : PortIn) : s.breaksHold p = false := by
  simp [State.breaksHold, h]

/-- While a command is in flight the block is not ready. -/
theorem cmdReady_of_inFlight {s : State} {w : Nat} {r : Response} (h : s.channel = .inFlight w r) :
    s.cmdReady = false := by
  simp [State.cmdReady, h]

theorem accepts_of_inFlight {s : State} {w : Nat} {r : Response} (h : s.channel = .inFlight w r) (p : PortIn) :
    s.accepts p = false := by
  simp [State.accepts, cmdReady_of_inFlight h]

section
variable {s : State} {p : PortIn} {rest : List PortIn}

theorem step_of_accepts (hin : s.inputs = p :: rest) (hhold : s.breaksHold p = false) (hacc : s.accepts p = true) :
    step s = runCommand p.cmd (s.consume none) := by
  obtain ⟨hrst, -, -⟩ := (accepts_iff s p).mp hacc
  simp [step, drives_cons hin, hrst, hhold, hacc]

/-- An edge at which the host takes the response in flight. -/
theorem step_of_takes (hin : s.inputs = p :: rest) (hhold : s.breaksHold p = false) (htake : s.takes p = true) :
    step s = .next (s.takeEdge p) := by
  obtain ⟨hrst, hvalid, -⟩ := (takes_iff s p).mp htake
  obtain ⟨w, r, hflight, -⟩ := (rspValid_iff s).mp hvalid
  simp [step, drives_cons hin, hrst, hhold, accepts_of_inFlight hflight, htake]

/-- An edge at which the host does not take the response in flight. -/
theorem step_of_not_taken {w : Nat} {r : Response} (hin : s.inputs = p :: rest) (hrst : p.rst = false)
    (hhold : s.breaksHold p = false) (hflight : s.channel = .inFlight w r) (hready : p.rspReady = false) :
    step s = .next (s.waitEdge p) := by
  simp [step, drives_cons hin, hrst, hhold, accepts_of_inFlight hflight, State.takes, hready]

end

/-- A step stops at a broken hold, or completes. -/
theorem step_stops_or_next (s : State) :
    (s.drives.rst = false ∧ s.breaksHold s.drives = true ∧ step s = .fault .hostBrokeHandshake) ∨
    (¬(s.drives.rst = false ∧ s.breaksHold s.drives = true) ∧ ∃ t, step s = .next t) := by
  rcases step_cases s with ⟨hrst, hs⟩ | hstop | ⟨-, hhold, -, hs⟩ | ⟨-, hhold, -, -, hs⟩ | ⟨-, hhold, -, -, hs⟩
  · exact .inr ⟨by simp [hrst], _, hs⟩
  · exact .inl hstop
  · exact .inr ⟨by simp [hhold], hs ▸ runCommand_next _ _⟩
  · exact .inr ⟨by simp [hhold], _, hs⟩
  · exact .inr ⟨by simp [hhold], _, hs⟩

/-- Where the host's list has ended, a held command is still presented. -/
theorem breaksHold_drives_of_inputs_nil {s : State} (h : s.inputs = []) : s.breaksHold s.drives = false := by
  cases hheld : s.held with
  | none => exact breaksHold_of_held_none hheld _
  | some c => simp [State.breaksHold, State.drives, h, hheld]

end Sys2Proof.Machine
end

section
/-! Proofs: the handshake, edge by edge (20_memory.md R42 to R44, R48, R51). -/

namespace Sys2Proof.Machine

/-- Settles O11: the edge is a wait, which leaves the response in flight and one more edge waited. -/
theorem untakenResponseStaysStable : Obligations.UntakenResponseStaysStable := by
  intro s p rest hin hrst hhold hvalid hready
  obtain ⟨w, r, hflight, hlatency⟩ := (rspValid_iff s).mp hvalid
  have hnext : (s.waitEdge p).channel = .inFlight (w + 1) r := by rw [State.waitEdge_channel, hflight, Channel.wait]
  have hstill : (s.waitEdge p).rspValid = true :=
    (rspValid_iff _).mpr ⟨w + 1, r, hnext, hlatency.trans (Nat.le_succ _)⟩
  refine ⟨_, step_of_not_taken hin hrst hhold hflight hready, ?_, hstill, rfl, fun g => ?_⟩
  · simp [State.ports, hvalid, hstill, cmdReady_of_inFlight hflight, cmdReady_of_inFlight hnext,
      (flight_iff _ _).mpr ⟨_, hflight⟩, (flight_iff _ _).mpr ⟨_, hnext⟩]
  · rw [State.reg_eq, State.reg_eq, State.waitEdge_toRegisters]

/-- Settles O12: a command in flight leaves `cmd_ready` at 0, so its next edge is a reset, the taking or a wait. -/
theorem oneCommandInFlight : Obligations.OneCommandInFlight := by
  refine ⟨fun c s t h => ?_, fun s t r hflight hstep => ?_⟩
  · rw [runCommand_eq] at h
    cases h
    exact ⟨rfl, _, State.after_flight _ _⟩
  · obtain ⟨w, hchannel⟩ := (flight_iff s r).mp hflight
    have hacc := accepts_of_inFlight hchannel s.drives
    refine ⟨cmdReady_of_inFlight hchannel, hacc, ?_⟩
    rcases step_cases s with ⟨hrst, hs⟩ | ⟨-, -, hs⟩ | ⟨-, -, haccepts, -⟩ | ⟨-, -, -, htake, hs⟩ |
      ⟨-, -, -, -, hs⟩
    · cases hs.symm.trans hstep
      exact .inr (.inr ⟨hrst, rfl, rfl⟩)
    · cases hs.symm.trans hstep
    · rw [hacc] at haccepts
      cases haccepts
    · cases hs.symm.trans hstep
      exact .inr (.inl ⟨htake, rfl, by simp [hflight]⟩)
    · cases hs.symm.trans hstep
      exact .inl ⟨(flight_iff _ r).mpr ⟨w + 1, by simp [hchannel, Channel.wait]⟩, rfl⟩

/-- Settles O13: of the three things a step does to the registers, only reset and an accepted command change any. -/
theorem registersChangeOnlyByCommandOrReset : Obligations.RegistersChangeOnlyByCommandOrReset := by
  intro s t h
  rcases step_toRegisters h with ⟨hrst, -⟩ | ⟨hacc, -⟩ | hkept
  · exact .inr (.inl hrst)
  · exact .inr (.inr hacc)
  · exact .inl fun g => by rw [State.reg_eq, State.reg_eq, hkept]

/-- Settles O17: a step stops at a broken hold or completes, and an ended list breaks no hold. -/
theorem stepStopsOnlyOnABrokenHold : Obligations.StepStopsOnlyOnABrokenHold := by
  intro s
  rw [← breaksHold_iff]
  rcases step_stops_or_next s with ⟨hrst, hhold, hs⟩ | ⟨hkeeps, t, hs⟩
  · refine ⟨iff_of_true hs ⟨hrst, hhold⟩, fun hin => ?_, fun r => by simp [hs]⟩
    rw [breaksHold_drives_of_inputs_nil hin] at hhold
    cases hhold
  · exact ⟨iff_of_false (by simp [hs]) hkeeps, fun _ => ⟨t, hs⟩, fun r => by simp [hs]⟩

/-- A ready block runs the command presented to it, legal or not. -/
theorem step_of_presented {s : State} {c : Command} {rspReady : Bool} {rest : List PortIn} (hready : s.cmdReady = true)
    (hheld : s.held = none ∨ s.held = some c) (hin : s.inputs = ⟨false, true, c, rspReady⟩ :: rest) :
    step s = runCommand c { s with inputs := rest, held := none } := by
  have hhold : s.breaksHold ⟨false, true, c, rspReady⟩ = false := by
    rcases hheld with h | h <;> simp [State.breaksHold, h]
  rw [step_of_accepts hin hhold ((accepts_iff _ _).mpr ⟨rfl, hready, rfl⟩), State.consume, hin, List.tail_cons]

theorem decode_of_decodeTableWord {nbits w : Nat} {i : Instr} (h : decodeTableWord nbits w = some i) :
    decode (commandOfBits nbits w).word (commandOfBits nbits w).data = .ok i := by
  simp only [decodeTableWord] at h
  split at h
  next j hj =>
    cases h
    exact hj
  next => cases h

/-- Settles O7: a presented command runs, and `withFetchWord` presents one to a ready block. -/
theorem stepRunsTheDecodedCommand : Obligations.StepRunsTheDecodedCommand :=
  ⟨fun _ _ _ _ _ hready hheld hin hdecode => (step_of_presented hready hheld hin).trans (runCommand_of_ok _ hdecode),
   fun _ _ _ _ hdecode =>
    (step_of_presented rfl (.inl rfl) rfl).trans (runCommand_of_ok _ (decode_of_decodeTableWord hdecode))⟩

/-- Settles O10: the edge is the taking of the response. -/
theorem responseIsTakenAtValidAndReady : Obligations.ResponseIsTakenAtValidAndReady := by
  intro s p rest r hin hrst hhold hflight hvalid hready
  refine ⟨_, step_of_takes hin hhold ((takes_iff s p).mpr ⟨hrst, hvalid, hready⟩), ?_, rfl, rfl, ?_, fun g => ?_⟩
  · simp [hflight]
  · simp [hin]
  · rw [State.reg_eq, State.reg_eq, State.takeEdge_toRegisters]

end Sys2Proof.Machine
end

section
/-! Proofs: the clocked run of a list of commands is the run of atomic commands (20_memory.md R44, R45). -/

namespace Sys2Proof.Machine

/-- An edge at which the host drives nothing: no reset, no command, no taking. -/
def PortIn.Quiet (p : PortIn) : Prop := p.rst = false ∧ p.cmdValid = false ∧ p.rspReady = false

/-- Quiet edges leave a command in flight and only count up the wait. -/
theorem steps_quiet {ps rest : List PortIn} {s : State} {w : Nat} {r : Response} (hquiet : ∀ p ∈ ps, p.Quiet)
    (hflight : s.channel = .inFlight w r) (hheld : s.held = none) (hin : s.inputs = ps ++ rest) :
    steps ps.length s = .next { s with channel := .inFlight (w + ps.length) r, inputs := rest } := by
  induction ps generalizing s w with
  | nil => exact congrArg _ (State.eq_of rfl hflight rfl hin rfl rfl)
  | cons p ps ih =>
    obtain ⟨hrst, hcmd, hready⟩ := hquiet p List.mem_cons_self
    have hoffered : p.offered = none := by simp [PortIn.offered, hcmd]
    have hstep := step_of_not_taken hin hrst (breaksHold_of_held_none hheld p) hflight hready
    rw [List.length_cons, steps_succ_next hstep,
      ih (w := w + 1) (fun q hq => hquiet q (List.mem_cons_of_mem _ hq)) (by simp [hflight, Channel.wait]) hoffered
        (by simp [hin])]
    have hwaited : w + 1 + ps.length = w + (ps.length + 1) := by omega
    exact congrArg _ (State.eq_of rfl (by rw [hwaited]) (hoffered.trans hheld.symm) rfl rfl rfl)

/-- The edge that takes a presented response settles it. -/
theorem step_settles {s : State} {p : PortIn} {rest : List PortIn} (hin : s.inputs = p :: rest) (hheld : s.held = none)
    (hcmd : p.cmdValid = false) (htake : s.takes p = true) :
    step s = .next (State.settle { s with inputs := rest }) := by
  have hoffered : p.offered = none := by simp [PortIn.offered, hcmd]
  have hrest : s.inputs.tail = rest := by rw [hin, List.tail_cons]
  rw [step_of_takes hin (breaksHold_of_held_none hheld p) htake]
  exact congrArg _ (State.eq_of rfl rfl (hoffered.trans hheld.symm) hrest rfl rfl)

/-- The head of what is driven for a command presents it; the rest of it waits, and takes the response. -/
theorem drive_eq (c : Command) (waits : Nat) :
    drive c waits =
      ⟨false, true, c, false⟩ :: (List.replicate waits ⟨false, false, ⟨0, 0⟩, false⟩ ++ [⟨false, false, ⟨0, 0⟩, true⟩]) :=
  rfl

theorem drive_length (c : Command) (waits : Nat) : (drive c waits).length = waits + 1 + 1 := by simp [drive]

/-- A command in flight whose host waits at least as long as the latency, then takes the response, is settled. -/
theorem steps_until_taken {waits : Nat} {s : State} {r : Response} {rest : List PortIn}
    (hflight : s.channel = .inFlight 0 r) (hheld : s.held = none)
    (hin : s.inputs = List.replicate waits ⟨false, false, ⟨0, 0⟩, false⟩ ++ (⟨false, false, ⟨0, 0⟩, true⟩ :: rest))
    (hlatency : Config.latency s.draws ≤ waits + 1) :
    steps (waits + 1) s = .next (State.settle { s with inputs := rest }) := by
  have hwaited := steps_quiet (fun p hp => List.eq_of_mem_replicate hp ▸ ⟨rfl, rfl, rfl⟩) hflight hheld hin
  rw [List.length_replicate, Nat.zero_add] at hwaited
  refine (steps_add 1 hwaited).trans ((steps_succ_next (step_settles rfl ?_ rfl ?_)).trans ?_)
  · exact hheld
  · exact (takes_iff _ _).mpr ⟨rfl, (rspValid_iff _).mpr ⟨waits, r, rfl, hlatency⟩, rfl⟩
  · exact congrArg _ (State.eq_of rfl rfl rfl rfl (by simp [State.settle, State.flight, hflight]) rfl)

/-- One command, driven with a wait long enough for its latency: its transaction, settled. -/
theorem steps_drive {c : Command} {waits : Nat} {s : State} {rest : List PortIn} (hready : s.channel = .ready)
    (hheld : s.held = none) (hin : s.inputs = drive c waits ++ rest)
    (hlatency : Config.latency (s.draws + 1) ≤ waits + 1) :
    steps (drive c waits).length s =
      .next (State.after { s with inputs := rest } (transaction c s.toRegisters)).settle := by
  rw [drive_eq, List.cons_append, List.append_assoc] at hin
  have haccept := step_of_presented ((cmdReady_iff s).mpr (.inl hready)) (.inl hheld) hin
  rw [runCommand_eq] at haccept
  rw [drive_length, steps_succ_next haccept, steps_until_taken rfl rfl rfl hlatency]
  exact congrArg _ (State.eq_of rfl rfl hheld.symm rfl rfl rfl)

/-- A wait long enough for every command is long enough for the first, and for those after it from the next draw on. -/
theorem waitsLongEnough_cons {p : Command × Nat} {cmds : List (Command × Nat)} {draw : Nat}
    (h : waitsLongEnough (p :: cmds) draw) :
    Config.latency draw ≤ p.2 + 1 ∧ waitsLongEnough cmds (draw + 1) := by
  refine ⟨h 0 p rfl, fun j q hq => ?_⟩
  rw [Nat.add_right_comm, Nat.add_assoc]
  exact h (j + 1) q hq

theorem transact_cons (c : Command) (cs : List Command) (s : State) :
    transact (c :: cs) s = transact cs (s.after (transaction c s.toRegisters)).settle := by
  rw [transact, runCommand_eq]

/-- The run of atomic commands on the clocked machine gives the registers and the responses of the transactions. -/
theorem transact_eq_runTransactions (cs : List Command) (s : State) :
    ∃ t, transact cs s = .next t ∧ t.toRegisters = (runTransactions cs s.toRegisters).1 ∧
      t.responses = s.responses ++ (runTransactions cs s.toRegisters).2 := by
  induction cs generalizing s with
  | nil => exact ⟨s, rfl, rfl, (List.append_nil _).symm⟩
  | cons c cs ih =>
    obtain ⟨t, ht, hregs, hrsps⟩ := ih (s.after (transaction c s.toRegisters)).settle
    refine ⟨t, (transact_cons c cs s).trans ht, hregs, hrsps.trans ?_⟩
    simp [State.settle, runTransactions]

/-- One response per command. -/
theorem runTransactions_length (cs : List Command) (g : Registers) : (runTransactions cs g).2.length = cs.length := by
  induction cs generalizing g with
  | nil => rfl
  | cons c cs ih => simp [runTransactions, ih]

/-- The clocked run of a list of driven commands is the run of the atomic commands. -/
theorem steps_driveAll (cmds : List (Command × Nat)) {s : State} {rest : List PortIn} (hready : s.channel = .ready)
    (hheld : s.held = none) (hin : s.inputs = driveAll cmds ++ rest) (hwaits : waitsLongEnough cmds (s.draws + 1)) :
    steps (driveAll cmds).length s = transact (cmds.map fun p => p.1) { s with inputs := rest } := by
  induction cmds generalizing s with
  | nil => exact congrArg _ (State.eq_of rfl rfl rfl hin rfl rfl)
  | cons p cmds ih =>
    obtain ⟨hfirst, hrest⟩ := waitsLongEnough_cons hwaits
    rw [driveAll, List.flatMap_cons, ← driveAll] at hin ⊢
    rw [List.append_assoc] at hin
    rw [List.length_append, steps_add _ (steps_drive hready hheld hin hfirst), List.map_cons, transact_cons]
    exact ih rfl hheld rfl hrest

/-- Settles O16, by induction on the list of commands: each is driven to its settled transaction; one response per command
because the transactions give one. -/
theorem handshakeRunIsTheAtomicRun : Obligations.HandshakeRunIsTheAtomicRun := by
  intro cmds s rest hready hheld hin hwaits
  have hrun := steps_driveAll cmds hready hheld hin hwaits
  obtain ⟨t, ht, -, hrsps⟩ := transact_eq_runTransactions (cmds.map fun p => p.1) { s with inputs := rest }
  exact ⟨hrun, t, hrun.trans ht, by rw [hrsps, List.length_append, runTransactions_length, List.length_map]⟩

end Sys2Proof.Machine
end

section
/-! Proofs: repeated commands (20_memory.md R50), and a checksum read and seeded again (R46). -/

namespace Sys2Proof.Machine

/-- The code of an error is not 0, so the second sticky update changes nothing. -/
theorem stickyUpdate_idem (v : Nibble) (e : ErrorKind) : stickyUpdate (stickyUpdate v e) e = stickyUpdate v e := by
  have hcode : e.code ≠ 0 := by cases e <;> decide
  by_cases hv : v = 0
  · simp only [stickyUpdate, hv, hcode, if_true, if_false]
  · simp only [stickyUpdate, hv, if_false]

/-- Failing twice in the same way leaves the registers as failing once. -/
theorem Registers.fail_idem (g : Registers) (e : ErrorKind) : ((g.fail e).regs.fail e).regs = (g.fail e).regs := by
  simp [Registers.setSticky, stickyUpdate_idem]

/-- The commands of the first list of R50. -/
def Repeatable (i : Instr) : Prop :=
  i ∈ [Instr.nop, .crc32Get, .crc64Get, .vdecFin, .vrdGet, .statGet, .vdecClr, .vrdStart, .statClr] ∨
    (∃ x, i = .crc32Seed x) ∨ ∃ x, i = .crc64Seed x

theorem effectVdecFin_idem (g : Registers) : (effectVdecFin (effectVdecFin g).regs).regs = (effectVdecFin g).regs := by
  by_cases h : 9 < g.vdecCnt.toNat
  · have hfail {g' : Registers} (h' : 9 < g'.vdecCnt.toNat) : effectVdecFin g' = g'.fail .varintTooLong := if_pos h'
    have hagain : 9 < (g.fail .varintTooLong).regs.vdecCnt.toNat := h
    rw [hfail h, hfail hagain, Registers.fail_idem]
  · simp [effectVdecFin, h]

theorem effectVrdGet_idem (g : Registers) : (effectVrdGet (effectVrdGet g).regs).regs = (effectVrdGet g).regs := by
  by_cases h : g.vrdState = .done
  · simp [effectVrdGet, h]
  · have hfail {g' : Registers} (h' : g'.vrdState ≠ .done) : effectVrdGet g' = g'.fail .sequenceError := if_neg h'
    have hagain : (g.fail .sequenceError).regs.vrdState ≠ .done := h
    rw [hfail h, hfail hagain, Registers.fail_idem]

/-- A repeatable command is idempotent on the registers: it writes constants, or nothing, or fails the same way again. -/
theorem effect_idem {i : Instr} (h : Repeatable i) (g : Registers) :
    (effect i (effect i g).regs).regs = (effect i g).regs := by
  cases i with
  | nop | crc32Get | crc64Get | statGet => rfl
  | crc32Seed | crc64Seed | vdecClr | vrdStart | statClr => rfl
  | vdecFin => exact effectVdecFin_idem g
  | vrdGet => exact effectVrdGet_idem g
  | crc32Upd | crc64Upd | venc | vdecPush | vrdByte | vrdEof => simp [Repeatable] at h

/-- After VRD.EOF the reader is not in ACTIVE. -/
theorem effectVrdEof_not_active (g : Registers) : (effectVrdEof g).regs.vrdState ≠ .active := by
  by_cases h : g.vrdState = .active
  · simp [effectVrdEof, h]
  · simp [effectVrdEof, h]

theorem effectVrdEof_of_not_active {g : Registers} (h : g.vrdState ≠ .active) :
    effectVrdEof g = g.fail .sequenceError := if_neg h

/-- Settles O56: the effect of a repeatable command is idempotent, and a first VRD.EOF leaves ACTIVE. -/
theorem repeatedCommandsLeaveTheState : Obligations.RepeatedCommandsLeaveTheState := by
  refine ⟨fun i s t hi h => ⟨_, exec_eq i t, fun g => ?_⟩, fun s t h => ⟨_, exec_eq .vrdEof t, ?_⟩⟩
  · rw [exec_eq] at h
    cases h
    rw [State.reg_eq, State.reg_eq, State.after_toRegisters, State.after_toRegisters, effect_idem hi]
  · rw [exec_eq] at h
    cases h
    exact congrArg (fun f : Effect => some f.rsp) (effectVrdEof_of_not_active (effectVrdEof_not_active s.toRegisters))

/-- Settles O29: the response data holds the whole accumulator, and the seed takes it whole. -/
theorem seedOfTheValueReadContinues : Obligations.SeedOfTheValueReadContinues := by
  intro s s'
  have hseed32 (d : Data) := (plainEncoding_of decodeFields_crc32Seed).1 d s'
  have hseed64 (d : Data) := (plainEncoding_of decodeFields_crc64Seed).1 d s'
  refine ⟨⟨_, _, _, exec_eq _ _, rfl, (hseed32 _).trans (exec_eq _ _), ?_⟩,
    ⟨_, _, _, exec_eq _ _, rfl, (hseed64 _).trans (exec_eq _ _), rfl⟩⟩
  simp [effect, effectCrc32Get, effectCrc32Seed]

end Sys2Proof.Machine
end

section
/-! Proofs, the encoding: the four forms an opcode can have (30_encoding.md R64, R65), said once for the 256 opcodes. -/

namespace Sys2Proof.Machine

/-- The encoding of `i` has these fields, and the data bits of `d` among those the word uses. -/
structure Restores (imm op : Byte) (d : Data) (i : Instr) : Prop where
  wellFormed : i.WellFormed
  word : (encode i).word = cmdWord imm op
  data : (encode i).data &&& usedData (cmdWord imm op) = d &&& usedData (cmdWord imm op)

/-- What an opcode is (30_encoding.md R64, R65): the immediate must be 0, or is a byte count, or is a byte, or the
opcode is reserved. In each form, what decodes encodes back, and the data bits outside the mask make no difference. -/
inductive OpcodeForm (op : Byte) : Prop
  | plain (i : Data → Instr) (hop : op.toNat ∈ plainOpcodes)
      (hdecode : ∀ imm d, decodeFields op imm d = withoutImm imm (i d))
      (hencode : ∀ d, Restores 0#8 op d (i d))
      (hused : ∀ d, i (d &&& usedData (cmdWord 0#8 op)) = i d)
  | count (i : Byte → Data → Instr) (hop : op.toNat = 0x02 ∨ op.toNat = 0x05)
      (hdecode : ∀ imm d, decodeFields op imm d = withByteCount imm (i imm d))
      (hencode : ∀ imm d, imm.toNat ≤ 8 → Restores imm op d (i imm d))
      (hused : ∀ imm d g, imm.toNat ≤ 8 → effect (i imm (d &&& usedData (cmdWord imm op))) g = effect (i imm d) g)
  | byte (i : Byte → Instr) (hop : op.toNat = 0x21 ∨ op.toNat = 0x31)
      (hdecode : ∀ imm d, decodeFields op imm d = .ok (i imm))
      (hencode : ∀ imm d, Restores imm op d (i imm))
  | reserved (hop : op.toNat ∉ plainOpcodes ++ [0x02, 0x05, 0x21, 0x31])
      (hdecode : ∀ imm d, decodeFields op imm d = .error .reservedOpcode)

/-! ### The bits of the data word each form uses -/

/-- The mask of used data bits, by the two fields of the word. -/
theorem usedData_cmdWord (imm op : Byte) : usedData (cmdWord imm op) =
    if op.toNat = 0x01 then 0xFFFFFFFF#64
    else if op.toNat = 0x02 ∨ op.toNat = 0x05 then BitVec.ofNat 64 (2 ^ (8 * imm.toNat) - 1)
    else if op.toNat = 0x04 ∨ op.toNat = 0x10 then BitVec.allOnes 64
    else 0#64 := by
  have hword : (cmdWord imm op).toNat = imm.toNat * 256 + op.toNat := append_toNat imm op
  have := op.isLt
  rw [usedData, show (cmdWord imm op).toNat % 256 = op.toNat by omega,
    show (cmdWord imm op).toNat / 256 = imm.toNat by omega]
  rfl

/-- The lanes below a count are inside the mask of that count. -/
theorem lanes_and_mask {k : Nat} (hk : k ≤ 8) (d : Data) :
    lanes (d &&& BitVec.ofNat 64 (2 ^ (8 * k) - 1)) k = lanes d k := by
  refine List.map_congr_left fun j hj => BitVec.eq_of_getLsbD_eq fun b hb => ?_
  have hlane : j < k := List.mem_range.mp hj
  have hmask : (BitVec.ofNat 64 (2 ^ (8 * k) - 1)).getLsbD (8 * j + b) = true := by
    rw [BitVec.getLsbD_ofNat, Nat.testBit_two_pow_sub_one]
    simp only [Bool.and_eq_true, decide_eq_true_eq]
    omega
  rw [lane, lane, BitVec.getLsbD_extractLsb', BitVec.getLsbD_extractLsb', BitVec.getLsbD_and, hmask, Bool.and_true]

theorem lanes_and_usedData {imm op : Byte} (hop : op.toNat = 0x02 ∨ op.toNat = 0x05) (himm : imm.toNat ≤ 8)
    (d : Data) : lanes (d &&& usedData (cmdWord imm op)) imm.toNat = lanes d imm.toNat := by
  rw [usedData_cmdWord, if_neg (by omega), if_pos hop, lanes_and_mask himm]

/-- A 32-bit seed in a data word is the seed. -/
theorem setWidth_low_word (seed : BitVec 32) : (seed.setWidth 64).setWidth 32 = seed := by
  rw [BitVec.setWidth_setWidth_of_le _ (by decide), BitVec.setWidth_eq]

theorem and_low_word (d : Data) : d &&& 0xFFFFFFFF#64 = (d.setWidth 32).setWidth 64 := by
  have hmask : d.toNat &&& 0xFFFFFFFF = d.toNat % 2 ^ 32 := Nat.and_two_pow_sub_one_eq_mod d.toNat 32
  apply BitVec.eq_of_toNat_eq
  rw [BitVec.toNat_and, BitVec.toNat_setWidth, BitVec.toNat_setWidth, Nat.mod_eq_of_lt (by omega)]
  exact hmask

/-! ### The opcode table, row by row -/

/-- A row with no operand. -/
theorem OpcodeForm.noOperand {op : Byte} {i : Instr} (hop : op.toNat ∈ plainOpcodes)
    (hdecode : ∀ imm d, decodeFields op imm d = withoutImm imm i) (hwf : i.WellFormed)
    (hword : (encode i).word = cmdWord 0#8 op) (hused : usedData (cmdWord 0#8 op) = 0#64) : OpcodeForm op :=
  .plain (fun _ => i) hop hdecode (fun d => ⟨hwf, hword, by rw [hused, BitVec.and_zero, BitVec.and_zero]⟩) fun _ => rfl

/-- A row whose operand is the whole data word. -/
theorem OpcodeForm.wholeData {op : Byte} {i : Data → Instr} (hop : op.toNat ∈ plainOpcodes)
    (hdecode : ∀ imm d, decodeFields op imm d = withoutImm imm (i d)) (hwf : ∀ d, (i d).WellFormed)
    (hencode : ∀ d, encode (i d) = ⟨cmdWord 0#8 op, d⟩) (hused : usedData (cmdWord 0#8 op) = BitVec.allOnes 64) :
    OpcodeForm op :=
  .plain i hop hdecode (fun d => ⟨hwf d, by rw [hencode], by rw [hencode]⟩) fun d => by rw [hused, BitVec.and_allOnes]

theorem opcodeForm_crc32Seed : OpcodeForm 0x01#8 := by
  have hused : usedData (cmdWord 0#8 0x01#8) = 0xFFFFFFFF#64 := rfl
  refine .plain (fun d => .crc32Seed (d.setWidth 32)) (by decide) decodeFields_crc32Seed (fun d => ⟨rfl, rfl, ?_⟩)
    fun d => ?_
  · rw [hused, and_low_word, and_low_word, encode, setWidth_low_word]
  · rw [hused, and_low_word, setWidth_low_word]

theorem opcodeForm_crc32Upd : OpcodeForm 0x02#8 := by
  refine .count .crc32Upd (by decide) decodeFields_crc32Upd (fun imm d himm => ⟨decide_eq_true himm, rfl, rfl⟩)
    fun imm d g himm => ?_
  simp only [effect, effectCrc32Upd, lanes_and_usedData (op := 0x02#8) (by decide) himm]

theorem opcodeForm_crc64Upd : OpcodeForm 0x05#8 := by
  refine .count .crc64Upd (by decide) decodeFields_crc64Upd (fun imm d himm => ⟨decide_eq_true himm, rfl, rfl⟩)
    fun imm d g himm => ?_
  simp only [effect, effectCrc64Upd, lanes_and_usedData (op := 0x05#8) (by decide) himm]

/-- A row whose operand is a byte in the immediate. -/
theorem OpcodeForm.immediateByte {op : Byte} {i : Byte → Instr} (hop : op.toNat = 0x21 ∨ op.toNat = 0x31)
    (hdecode : ∀ imm d, decodeFields op imm d = .ok (i imm)) (hwf : ∀ b, (i b).WellFormed)
    (hencode : ∀ b, (encode (i b)).word = cmdWord b op) : OpcodeForm op := by
  refine .byte i hop hdecode fun imm d => ⟨hwf imm, hencode imm, ?_⟩
  rw [usedData_cmdWord, if_neg (by omega), if_neg (by omega), if_neg (by omega), BitVec.and_zero, BitVec.and_zero]

/-- The opcodes of the decoder are those of the statements, as numbers. -/
theorem mem_opcodes_iff {op : Byte} : op ∈ opcodes ↔ op.toNat ∈ plainOpcodes ++ [0x02, 0x05, 0x21, 0x31] := by
  have hperm : (opcodes.map BitVec.toNat).Perm (plainOpcodes ++ [0x02, 0x05, 0x21, 0x31]) := by decide
  rw [← hperm.mem_iff, List.mem_map_of_injective BitVec.toNat_injective]

/-- Every opcode has one of the four forms. -/
theorem opcodeForm (op : Byte) : OpcodeForm op := by
  by_cases hop : op ∈ opcodes
  · simp only [opcodes, List.mem_cons, List.not_mem_nil, or_false] at hop
    rcases hop with rfl | rfl | rfl | rfl | rfl | rfl | rfl | rfl | rfl | rfl | rfl | rfl | rfl | rfl | rfl | rfl | rfl
    · exact .noOperand (by decide) decodeFields_nop rfl rfl rfl
    · exact opcodeForm_crc32Seed
    · exact opcodeForm_crc32Upd
    · exact .noOperand (by decide) decodeFields_crc32Get rfl rfl rfl
    · exact .wholeData (by decide) decodeFields_crc64Seed (fun _ => rfl) (fun _ => rfl) rfl
    · exact opcodeForm_crc64Upd
    · exact .noOperand (by decide) decodeFields_crc64Get rfl rfl rfl
    · exact .wholeData (by decide) decodeFields_venc (fun _ => rfl) (fun _ => rfl) rfl
    · exact .noOperand (by decide) decodeFields_vdecClr rfl rfl rfl
    · exact .immediateByte (by decide) decodeFields_vdecPush (fun _ => rfl) (fun _ => rfl)
    · exact .noOperand (by decide) decodeFields_vdecFin rfl rfl rfl
    · exact .noOperand (by decide) decodeFields_vrdStart rfl rfl rfl
    · exact .immediateByte (by decide) decodeFields_vrdByte (fun _ => rfl) (fun _ => rfl)
    · exact .noOperand (by decide) decodeFields_vrdEof rfl rfl rfl
    · exact .noOperand (by decide) decodeFields_vrdGet rfl rfl rfl
    · exact .noOperand (by decide) decodeFields_statGet rfl rfl rfl
    · exact .noOperand (by decide) decodeFields_statClr rfl rfl rfl
  · exact .reserved (fun hmem => hop (mem_opcodes_iff.mpr hmem)) fun imm d => decodeFields_reserved imm d hop

end Sys2Proof.Machine
end

section
/-! Proofs: decoder and encoder agree, the illegal words are those of the list, and unused data bits do not matter
(30_encoding.md R61 to R65, R70). -/

namespace Sys2Proof.Machine

/-! ### Decode and encode -/

theorem withoutImm_eq_ok {imm : Byte} {i j : Instr} : withoutImm imm i = .ok j ↔ imm = 0#8 ∧ i = j := by
  unfold withoutImm
  split <;> simp_all

theorem withByteCount_eq_ok {imm : Byte} {i j : Instr} : withByteCount imm i = .ok j ↔ imm.toNat ≤ 8 ∧ i = j := by
  by_cases h : imm.toNat ≤ 8
  · simp [withByteCount_of_le, h]
  · simp [withByteCount_of_gt imm i (Nat.lt_of_not_le h), h]

theorem restores_of_decodeFields {op imm : Byte} {d : Data} {i : Instr} (h : decodeFields op imm d = .ok i) :
    Restores imm op d i := by
  cases opcodeForm op with
  | plain j _ hdecode hencode =>
    obtain ⟨rfl, rfl⟩ := withoutImm_eq_ok.mp (hdecode imm d ▸ h)
    exact hencode d
  | count j _ hdecode hencode =>
    obtain ⟨himm, rfl⟩ := withByteCount_eq_ok.mp (hdecode imm d ▸ h)
    exact hencode imm d himm
  | byte j _ hdecode hencode =>
    obtain rfl : j imm = i := by simpa [hdecode] using h
    exact hencode imm d
  | reserved _ hdecode => simp [hdecode] at h

/-- Settles O3: each form of opcode restores the two fields and the used data bits, and a word is its two fields. -/
theorem encodeOfDecodeRestoresTheWord : Obligations.EncodeOfDecodeRestoresTheWord := by
  intro w d i h
  obtain ⟨hwf, hword, hdata⟩ := restores_of_decodeFields h
  rw [cmdWord, append_fields] at hword hdata
  exact ⟨hwf, hword, hdata⟩

/-- Settles O2, by the row of the opcode table each instruction has. -/
theorem decodeOfEncodeIsTheInstruction : Obligations.DecodeOfEncodeIsTheInstruction := by
  intro i hi
  cases i with
  | crc32Seed seed =>
    exact (decode_cmdWord _ _ _).trans (congrArg (fun x => Except.ok (Instr.crc32Seed x)) (setWidth_low_word seed))
  | crc32Upd k d | crc64Upd k d => exact (decode_cmdWord _ _ _).trans (withByteCount_of_le _ _ (of_decide_eq_true hi))
  | _ => exact decode_cmdWord _ _ _

/-- Settles O1: the words are decoded. -/
theorem sampleWordsDecodeAsTabled : Obligations.SampleWordsDecodeAsTabled := by
  unfold Obligations.SampleWordsDecodeAsTabled
  decide

/-! ### The illegal words -/

theorem withoutImm_error_iff {imm : Byte} {i : Instr} :
    (∃ e, withoutImm imm i = .error e) ↔ imm.toNat ≠ 0 := by
  by_cases h : imm = 0#8
  · simp [h]
  · exact iff_of_true ⟨_, withoutImm_of_ne imm i h⟩ fun h0 => h (BitVec.eq_of_toNat_eq h0)

theorem withByteCount_error_iff {imm : Byte} {i : Instr} :
    (∃ e, withByteCount imm i = .error e) ↔ 8 < imm.toNat := by
  by_cases h : imm.toNat ≤ 8
  · simp [withByteCount_of_le, h]
  · exact iff_of_true ⟨_, withByteCount_of_gt imm i (Nat.lt_of_not_le h)⟩ (Nat.lt_of_not_le h)

/-- Which fields are illegal, by the form of the opcode. -/
theorem decodeFields_error_iff (op imm : Byte) (d : Data) : (∃ e, decodeFields op imm d = .error e) ↔
    op.toNat ∉ plainOpcodes ++ [0x02, 0x05, 0x21, 0x31] ∨ ((op.toNat = 0x02 ∨ op.toNat = 0x05) ∧ 8 < imm.toNat) ∨
      (op.toNat ∈ plainOpcodes ∧ imm.toNat ≠ 0) := by
  cases opcodeForm op with
  | plain i hop hdecode =>
    have hcount : ¬(op.toNat = 0x02 ∨ op.toNat = 0x05) := by
      rintro (h | h) <;> rw [h] at hop <;> exact absurd hop (by decide)
    rw [hdecode, withoutImm_error_iff]
    simp [hop, hcount]
  | count i hop hdecode =>
    rw [hdecode, withByteCount_error_iff]
    rcases hop with h | h <;> simp [h, plainOpcodes]
  | byte i hop hdecode =>
    rw [hdecode]
    rcases hop with h | h <;> simp [h, plainOpcodes]
  | reserved hop hdecode => exact iff_of_true ⟨_, hdecode imm d⟩ (.inl hop)

theorem illegalWord_iff (w : CmdWord) (d : Data) : (∃ e, decode w d = .error e) ↔ IllegalWord w := by
  rw [decode, decodeFields_error_iff, opField_toNat, immField_toNat]
  rfl

/-- Settles O4: the fields of an illegal word by the form of its opcode, and an illegal word runs as the failure. -/
theorem illegalWordsAreExactlyTheListed : Obligations.IllegalWordsAreExactlyTheListed := by
  refine ⟨illegalWord_iff, fun c s h => ?_, by decide +kernel⟩
  obtain ⟨e, he⟩ := (illegalWord_iff c.word c.data).mpr h
  exact runCommand_of_error s he

/-! ### The unused data bits -/

/-- Only the used data bits go into a transaction. -/
theorem transaction_usedData (imm op : Byte) (d : Data) (g : Registers) :
    transaction ⟨cmdWord imm op, d &&& usedData (cmdWord imm op)⟩ g = transaction ⟨cmdWord imm op, d⟩ g := by
  simp only [transaction, decode_cmdWord]
  cases opcodeForm op with
  | plain i _ hdecode _ hused =>
    by_cases himm : imm = 0#8
    · subst himm
      simp only [hdecode, hused]
    · simp [hdecode, withoutImm_of_ne, himm]
  | count i _ hdecode _ hused =>
    by_cases himm : imm.toNat ≤ 8
    · simp [hdecode, withByteCount_of_le, himm, hused]
    · simp [hdecode, withByteCount_of_gt, Nat.lt_of_not_le himm]
  | byte i _ hdecode => simp [hdecode]
  | reserved _ hdecode => simp [hdecode]

/-- Settles O5: a command is its transaction, which sees the used data bits alone. -/
theorem unusedDataBitsDoNotMatter : Obligations.UnusedDataBitsDoNotMatter := by
  intro w d d' s h
  have hused (d : Data) := transaction_usedData (immField w) (opField w) d s.toRegisters
  rw [cmdWord, append_fields] at hused
  rw [runCommand_eq, runCommand_eq, ← hused d, h, hused d']

end Sys2Proof.Machine
end

section
/-! Proofs: the form of every response (30_encoding.md R66, R67), of each command and so of every step. -/

namespace Sys2Proof.Machine

/-! ### The length of an encoding -/

/-- A value of `n + 1` groups is encoded in at most `n + 1` bytes (40_varint.md R83). -/
theorem encLoop_length_le (rounds : Nat) {n : Nat} {v : Data} (h : v.toNat < 2 ^ (7 * (n + 1))) :
    (encLoop rounds v).length ≤ n + 1 := by
  induction rounds generalizing n v with
  | zero => simp [encLoop]
  | succ rounds ih =>
    rw [encLoop]
    split
    next hmore =>
      cases n with
      | zero => omega
      | succ n =>
        refine Nat.succ_le_succ (ih ?_)
        rw [shr7_toNat]
        rw [Nat.mul_succ, Nat.pow_add] at h
        omega
    next => simp

theorem enc_length_le {v : Data} (h : v.toNat < 2 ^ 63) : (enc v).length ≤ 9 := encLoop_length_le 9 (n := 8) h

/-! ### The form of the response of each command -/

theorem responseForm_fail (g : Registers) (e : ErrorKind) : ResponseForm (g.fail e).rsp :=
  ⟨fun _ h => by cases h; rfl, nofun, Nat.zero_le 9, fun h => absurd rfl h⟩

theorem responseForm_ok {data : Data} {ext : Byte} {len : Nibble} (hlen : len.toNat ≤ 9) (hext : ext ≠ 0 → len = 9) :
    ResponseForm ⟨.ok, data, ext, len⟩ :=
  ⟨nofun, nofun, hlen, hext⟩

/-- A response with no extension byte. -/
theorem responseForm_noExt {data : Data} {len : Nibble} (hlen : len.toNat ≤ 9) : ResponseForm ⟨.ok, data, 0, len⟩ :=
  responseForm_ok hlen fun h => absurd rfl h

theorem responseForm_more {len : Nibble} (hpos : 1 ≤ len.toNat) (hle : len.toNat ≤ 8) :
    ResponseForm ⟨.more, 0, 0, len⟩ :=
  ⟨nofun, fun _ => ⟨rfl, rfl, hpos, hle⟩, Nat.le_succ_of_le hle, fun h => absurd rfl h⟩

/-- A command that does one of two effects answers a formed response where both do. -/
theorem ResponseForm.ite {c : Prop} [Decidable c] {e f : Effect} (he : c → ResponseForm e.rsp)
    (hf : ¬c → ResponseForm f.rsp) : ResponseForm (if c then e else f).rsp := by
  split
  next h => exact he h
  next h => exact hf h

theorem effectVenc_responseForm (v : Data) (g : Registers) : ResponseForm (effectVenc v g).rsp := by
  refine .ite (fun _ => responseForm_fail g _) fun h => ?_
  have hlen := enc_length_le (Nat.lt_of_not_le h)
  refine responseForm_ok (by rwa [count_toNat (by omega)]) fun hext => ?_
  have hninth : ¬(enc v).length ≤ 8 := fun h8 => hext (List.getD_eq_default _ _ h8)
  rw [show (enc v).length = 9 by omega]
  rfl

theorem effectVrdByte_responseForm (b : Byte) {g : Registers} (h : VrdInv g) :
    ResponseForm (effectVrdByte b g).rsp := by
  refine .ite (fun hactive => ?_) fun _ => responseForm_fail g _
  have hi := h.active_cnt hactive
  have hcount : (count (g.vrdCnt.toNat + 1)).toNat = g.vrdCnt.toNat + 1 := count_toNat (by omega)
  refine .ite (fun _ => responseForm_noExt (by omega)) fun _ => .ite (fun _ => responseForm_fail _ _) fun hne => ?_
  exact responseForm_more (by omega) (by omega)

theorem effect_responseForm (i : Instr) {g : Registers} (h : RegistersInv g) : ResponseForm (effect i g).rsp := by
  cases i with
  | nop | crc32Seed | crc32Get | crc64Seed | crc64Get | vdecClr | vdecPush | vrdStart | statGet | statClr =>
    exact responseForm_noExt (by decide)
  | crc32Upd | crc64Upd => exact .ite (fun _ => responseForm_noExt (by decide)) fun _ => responseForm_fail g _
  | venc v => exact effectVenc_responseForm v g
  | vdecFin => exact .ite (fun _ => responseForm_fail g _) fun hle => responseForm_noExt (Nat.le_of_not_lt hle)
  | vrdByte b => exact effectVrdByte_responseForm b h.vrd
  | vrdEof => exact .ite (fun _ => responseForm_fail _ _) fun _ => responseForm_fail g _
  | vrdGet => exact .ite (fun _ => responseForm_noExt h.vrd.cnt_le) fun _ => responseForm_fail g _

theorem transaction_responseForm (c : Command) {g : Registers} (h : RegistersInv g) :
    ResponseForm (transaction c g).rsp := by
  rcases transaction_cases c g with ⟨i, -, hi⟩ | hfail
  · exact hi ▸ effect_responseForm i h
  · exact hfail ▸ responseForm_fail g _

/-! ### Every step -/

/-- What a completed step does to the response in flight and to those taken: the one in flight is new, the same, or
gone, and one is recorded only from flight. -/
theorem step_responses {s t : State} (h : step s = .next t) :
    (t.flight = none ∧ (t.responses = s.responses ∨ t.responses = s.responses ++ s.flight.toList)) ∨
    (t.flight = some (transaction s.drives.cmd s.toRegisters).rsp ∧ t.responses = s.responses) ∨
    (t.flight = s.flight ∧ t.responses = s.responses) := by
  rcases step_cases s with ⟨-, hs⟩ | ⟨-, -, hs⟩ | ⟨-, -, -, hs⟩ | ⟨-, -, -, -, hs⟩ | ⟨-, -, -, -, hs⟩ <;> rw [hs] at h
  · cases h
    exact .inl ⟨rfl, .inl rfl⟩
  · cases h
  · rw [runCommand_eq] at h
    cases h
    exact .inr (.inl ⟨rfl, rfl⟩)
  · cases h
    exact .inl ⟨rfl, .inr rfl⟩
  · cases h
    refine .inr (.inr ⟨?_, rfl⟩)
    simp only [State.flight, State.waitEdge_channel]
    cases s.channel <;> rfl

/-- Settles O55: a step answers with the response of a transaction, keeps the one in flight, or records or drops it. -/
theorem stepKeepsResponsesFormed : Obligations.StepKeepsResponsesFormed := by
  intro s t hinv ⟨hflight, htaken⟩ hstep
  rcases step_responses hstep with ⟨hnone, hkept | hrecorded⟩ | ⟨hnew, hkept⟩ | ⟨hsame, hkept⟩
  · exact ⟨by simp [hnone], hkept ▸ htaken⟩
  · refine ⟨by simp [hnone], fun r hr => ?_⟩
    rw [hrecorded, List.mem_append, Option.mem_toList] at hr
    exact hr.elim (htaken r) (hflight r)
  · refine ⟨fun r hr => ?_, hkept ▸ htaken⟩
    cases hnew.symm.trans hr
    exact transaction_responseForm _ ((registerInv_iff s).mp hinv)
  · exact ⟨hsame ▸ hflight, hkept ▸ htaken⟩

end Sys2Proof.Machine
end

section
/-! Proofs: the byte-list pseudo-instructions of the checksums (30_encoding.md R69). -/

namespace Sys2Proof.Machine

/-! ### Chunks of 8 -/

/-- With rounds enough, the chunks are the whole list, and each fits the lanes. -/
theorem chunksLoop_spec {rounds : Nat} {bs : List Byte} (h : bs.length ≤ rounds) :
    (chunksLoop rounds bs).flatten = bs ∧ ∀ c ∈ chunksLoop rounds bs, c.length ≤ 8 := by
  induction rounds generalizing bs with
  | zero => simp [chunksLoop, List.length_eq_zero_iff.mp (Nat.le_zero.mp h)]
  | succ rounds ih =>
    cases bs with
    | nil => simp [chunksLoop]
    | cons b bs =>
      obtain ⟨hflatten, hlength⟩ := ih (bs := (b :: bs).drop 8) (by simp at h ⊢; omega)
      refine ⟨?_, fun c hc => ?_⟩
      · rw [chunksLoop, List.flatten_cons, hflatten, List.take_append_drop]
      · rcases List.mem_cons.mp hc with rfl | hc
        · exact List.length_take_le 8 _
        · exact hlength c hc

theorem chunksOf8_spec (bs : List Byte) : (chunksOf8 bs).flatten = bs ∧ ∀ c ∈ chunksOf8 bs, c.length ≤ 8 :=
  chunksLoop_spec le_rfl

/-! ### The updates of a byte list -/

theorem chunkCount_toNat {c : List Byte} (h : c.length ≤ 8) : (BitVec.ofNat 8 c.length).toNat = c.length := by
  rw [BitVec.toNat_ofNat]
  exact Nat.mod_eq_of_lt (by omega)

/-- An update with a legal count absorbs its lanes into the accumulator, the register `a`, and leaves every other
register alone (41_crc32.md R114, 42_crc64.md R134). -/
def AbsorbsLanes {n : Nat} (p : BitVec n) (acc : State → BitVec n) (a : Reg) (upd : Byte → Data → Instr) : Prop :=
  ∀ (k : Byte) (d : Data) (s t : State), k.toNat ≤ 8 → exec (upd k d) s = .next t →
    acc t = crcBitwise p (acc s) (lanes d k.toNat) ∧ ∀ r, r ≠ a → t.reg r = s.reg r

theorem crc32Upd_absorbsLanes : AbsorbsLanes poly32 (fun s => s.crc32Acc) .crc32Acc .crc32Upd := by
  intro k d s t hk h
  rw [exec_eq] at h
  cases h
  refine ⟨effectCrc32Upd_crc32Acc d _ hk, fun r hr => ?_⟩
  rw [State.reg_eq, State.reg_eq, State.after_toRegisters, effect, effectCrc32Upd, if_pos hk]
  exact Registers.setCrc32Acc_reg _ _ hr

theorem crc64Upd_absorbsLanes : AbsorbsLanes poly64 (fun s => s.crc64Acc) .crc64Acc .crc64Upd := by
  intro k d s t hk h
  rw [exec_eq] at h
  cases h
  refine ⟨effectCrc64Upd_crc64Acc d _ hk, fun r hr => ?_⟩
  rw [State.reg_eq, State.reg_eq, State.after_toRegisters, effect, effectCrc64Upd, if_pos hk]
  exact Registers.setCrc64Acc_reg _ _ hr

/-- The updates of a list of chunks absorb the chunks one after another. -/
theorem execAll_updates {n : Nat} {p : BitVec n} {acc : State → BitVec n} {a : Reg} {upd : Byte → Data → Instr}
    (h : AbsorbsLanes p acc a upd) {cs : List (List Byte)} (hcs : ∀ c ∈ cs, c.length ≤ 8) (s : State) :
    ∃ t, execAll (cs.map fun c => upd (BitVec.ofNat 8 c.length) (pack c)) s = .next t ∧
      acc t = crcBitwise p (acc s) cs.flatten ∧ ∀ r, r ≠ a → t.reg r = s.reg r := by
  induction cs generalizing s with
  | nil => exact ⟨s, rfl, (crcBitwise_nil _ _).symm, fun _ _ => rfl⟩
  | cons c cs ih =>
    have hlen := hcs c List.mem_cons_self
    have hcount := chunkCount_toNat hlen
    obtain ⟨u, hu⟩ := exec_next (upd (BitVec.ofNat 8 c.length) (pack c)) s
    obtain ⟨huacc, hureg⟩ := h _ _ s u (by rwa [hcount]) hu
    obtain ⟨t, ht, htacc, htreg⟩ := ih (fun c' hc' => hcs c' (List.mem_cons_of_mem _ hc')) u
    refine ⟨t, ?_, ?_, fun r hr => (htreg r hr).trans (hureg r hr)⟩
    · rw [List.map_cons, execAll, hu]
      exact ht
    · rw [htacc, huacc, hcount, lanes_pack c hlen, List.flatten_cons, crcBitwise_append]

/-- The updates of the chunks of a byte list absorb the list. -/
theorem execAll_chunksOf8 {n : Nat} {p : BitVec n} {acc : State → BitVec n} {a : Reg} {upd : Byte → Data → Instr}
    (h : AbsorbsLanes p acc a upd) (bs : List Byte) (s : State) :
    ∃ t, execAll ((chunksOf8 bs).map fun c => upd (BitVec.ofNat 8 c.length) (pack c)) s = .next t ∧
      acc t = crcBitwise p (acc s) bs ∧ ∀ r, r ≠ a → t.reg r = s.reg r := by
  obtain ⟨hflatten, hlength⟩ := chunksOf8_spec bs
  obtain ⟨t, ht, hacc, hreg⟩ := execAll_updates h hlength s
  exact ⟨t, ht, hflatten ▸ hacc, hreg⟩

/-- Settles O28: the expansions are the updates of the list's chunks, each with a legal count. -/
theorem crcBytesAbsorbsTheWholeList : Obligations.CrcBytesAbsorbsTheWholeList :=
  fun bytes s => ⟨execAll_chunksOf8 crc32Upd_absorbsLanes bytes s, execAll_chunksOf8 crc64Upd_absorbsLanes bytes s⟩

end Sys2Proof.Machine
end

section
/-! Proofs: the assembled form of a command reads back (30_encoding.md R68, R69). -/

namespace Sys2Proof.Machine

@[simp] theorem hexDigits_length (k n : Nat) : (hexDigits k n).length = k := by
  induction k generalizing n with
  | zero => rfl
  | succ k ih => simp [hexDigits, ih]

theorem digitValue_hexDigit {n : Nat} (h : n < 16) : digitValue (hexDigit n) = some n := by
  have hall : ∀ n < 16, digitValue (hexDigit n) = some n := by decide
  exact hall n h

/-- Digits are read from the left: the rest continues from the value of the front. -/
theorem digitsFrom_append (base acc : Nat) (front rest : List Char) :
    digitsFrom base acc (front ++ rest) = (digitsFrom base acc front).bind fun v => digitsFrom base v rest := by
  induction front generalizing acc with
  | nil => rfl
  | cons c front ih =>
    simp only [List.cons_append, digitsFrom]
    split
    · split
      · exact ih _
      · rfl
    · rfl

theorem digitsFrom_hexDigit (acc : Nat) {n : Nat} (h : n < 16) :
    digitsFrom 16 acc [hexDigit n] = some (acc * 16 + n) := by
  simp [digitsFrom, digitValue_hexDigit h, h]

/-- The last `k` hexadecimal digits of a number read as the number modulo `16^k`. -/
theorem digitsFrom_hexDigits (k n : Nat) : digitsFrom 16 0 (hexDigits k n) = some (n % 16 ^ k) := by
  induction k generalizing n with
  | zero => simp [hexDigits, digitsFrom, Nat.mod_one]
  | succ k ih =>
    rw [hexDigits, digitsFrom_append, ih, Option.bind_some, digitsFrom_hexDigit _ (Nat.mod_lt _ (by decide)),
      Nat.pow_succ', Nat.mod_mul]
    congr 1
    omega

theorem digits_hexDigits {k n : Nat} (hk : 0 < k) (hn : n < 16 ^ k) : digits 16 (hexDigits k n) = some n := by
  have hne : hexDigits k n ≠ [] := List.ne_nil_of_length_pos (by rwa [hexDigits_length])
  rw [digits, if_neg (by simpa using hne), digitsFrom_hexDigits, Nat.mod_eq_of_lt hn]

theorem assembleRaw_assembledForm (c : Command) : assembleRaw (assembledForm c) = some c := by
  have hsplit : (assembledForm c).splitAt 4 = (hexDigits 4 c.word.toNat, ':' :: hexDigits 16 c.data.toNat) := by
    rw [List.splitAt_eq, assembledForm, List.take_left' (hexDigits_length _ _), List.drop_left' (hexDigits_length _ _)]
  have hword : digits 16 (hexDigits 4 c.word.toNat) = some c.word.toNat := digits_hexDigits (by decide) c.word.isLt
  have hdata : digits 16 (hexDigits 16 c.data.toNat) = some c.data.toNat := digits_hexDigits (by decide) c.data.isLt
  rw [assembleRaw, hsplit]
  simp [hword, hdata]

/-- Settles O57: the raw form by its digits, the printed examples by running the assembler on them. -/
theorem assembledFormReadsBack : Obligations.AssembledFormReadsBack :=
  ⟨assembleRaw_assembledForm, by decide +kernel⟩

end Sys2Proof.Machine
end

section
/-! Proofs: the commands of the buffer decoder and of the stream reader, one at a time (40_varint.md R86 to R88, R93 to R96),
and the transitions of the reader (R91). -/

namespace Sys2Proof.Machine

/-! ### From an effect to the next state -/

@[simp] theorem answered_toRegisters (s : State) (r : Response) : (answered s r).toRegisters = s.toRegisters := rfl

@[simp] theorem answered_flight (s : State) (r : Response) : (answered s r).flight = some r := rfl

@[simp] theorem failed_flight (s : State) (e : ErrorKind) : (failed s e).flight = some (bare (.error e)) := rfl

theorem exec_of_respond {i : Instr} {s : State} {g : Registers} {r : Response}
    (h : effect i s.toRegisters = g.respond r) : exec i s = .next (answered { s with toRegisters := g } r) := by
  rw [exec_eq, h]
  rfl

theorem exec_of_fail {i : Instr} {s : State} {g : Registers} {e : ErrorKind}
    (h : effect i s.toRegisters = g.fail e) : exec i s = .next (failed { s with toRegisters := g } e) := by
  rw [exec_eq, h]
  rfl

/-! ### The buffer decoder -/

/-- Settles O33: the three register writes, and the encoding. -/
theorem vdecClrClearsTheDecoder : Obligations.VdecClrClearsTheDecoder :=
  ⟨fun _ => exec_of_respond rfl, plainEncoding_of decodeFields_vdecClr, rfl⟩

/-- What a pushed byte does, on numbers: the three ways of R87 write the three registers together. -/
theorem Registers.pushByte_eq (g : Registers) (b : Byte) : g.pushByte b =
    { g with
      vdecCnt := count (min (g.vdecCnt.toNat + 1) 10)
      vdecStop := g.vdecStop || (decide (1 ≤ g.vdecCnt.toNat) && decide (b = 0))
      vdecAcc :=
        if g.vdecStop = false ∧ ¬(1 ≤ g.vdecCnt.toNat ∧ b = 0) ∧ g.vdecCnt.toNat ≤ 8 then
          BitVec.ofNat 63 (withGroup g.vdecAcc.toNat b g.vdecCnt.toNat)
        else g.vdecAcc } := by
  rw [← Bool.decide_and, Registers.pushByte]
  cases hstop : g.vdecStop with
  | true => simp [hstop, Registers.setVdecCnt]
  | false =>
    by_cases hzero : 1 ≤ g.vdecCnt.toNat ∧ b = 0
    · simp only [hzero, Registers.setVdecCnt, Registers.setVdecStop]
      simp
    · by_cases hi : g.vdecCnt.toNat ≤ 8
      · simp only [hzero, hi, ← or_group_eq _ b hi, Registers.setVdecCnt, Registers.setVdecAcc]
        simp [hstop]
      · simp only [hzero, hi, Registers.setVdecCnt]
        simp [hstop]

/-- Settles O34: the response is OK, and the registers are those of the pushed byte. -/
theorem vdecPushCountsAndAccumulates : Obligations.VdecPushCountsAndAccumulates := by
  refine ⟨fun b s => ?_, byteEncoding_of decodeFields_vdecPush, rfl⟩
  rw [exec_of_respond (g := s.toRegisters.pushByte b) rfl, Registers.pushByte_eq]
  rfl

theorem exec_vdecFin_of_le {s : State} (h : s.vdecCnt.toNat ≤ 9) :
    exec .vdecFin s = .next (answered s ⟨.ok, BitVec.ofNat 64 s.vdecAcc.toNat, 0, s.vdecCnt⟩) := by
  rw [BitVec.ofNat_toNat]
  exact exec_of_respond (if_neg (Nat.not_lt.mpr h))

theorem exec_vdecFin_of_gt {s : State} (h : 9 < s.vdecCnt.toNat) :
    exec .vdecFin s = .next (failed s .varintTooLong) :=
  exec_of_fail (if_pos h)

/-- Settles O35, by the two branches of the effect. -/
theorem vdecFinRespondsOrFails : Obligations.VdecFinRespondsOrFails :=
  ⟨fun _ => exec_vdecFin_of_le, fun _ => exec_vdecFin_of_gt, plainEncoding_of decodeFields_vdecFin, rfl⟩

/-! ### The stream reader -/

theorem exec_vrdStart (s : State) :
    exec .vrdStart s = .next (answered { s with vrdAcc := 0, vrdCnt := 0, vrdState := .active } (bare .ok)) :=
  exec_of_respond rfl

/-- Settles O37: the three register writes, and the encoding. -/
theorem vrdStartStartsARead : Obligations.VrdStartStartsARead :=
  ⟨exec_vrdStart, plainEncoding_of decodeFields_vrdStart, rfl⟩

theorem continuation_eq_false_iff (b : Byte) : continuation b = false ↔ b.toNat < 0x80 := by
  rw [continuation_eq, decide_eq_false_iff_not, Nat.not_le]

section
variable {b : Byte} {s : State} (hactive : s.vrdState = .active)
include hactive

/-- The last byte of a varint. -/
theorem exec_vrdByte_last (hi : s.vrdCnt.toNat ≤ 8) (hb : b.toNat < 0x80) :
    exec (.vrdByte b) s = .next (answered
      { s with
        vrdAcc := BitVec.ofNat 63 (withGroup s.vrdAcc.toNat b s.vrdCnt.toNat)
        vrdCnt := BitVec.ofNat 4 (s.vrdCnt.toNat + 1)
        vrdState := .done }
      ⟨.ok, BitVec.ofNat 64 (withGroup s.vrdAcc.toNat b s.vrdCnt.toNat), 0, BitVec.ofNat 4 (s.vrdCnt.toNat + 1)⟩) := by
  rw [← or_group_eq _ _ hi, ← or_group _ _ hi, BitVec.ofNat_toNat]
  refine exec_of_respond ?_
  rw [effect, effectVrdByte, if_pos hactive, if_pos ((continuation_eq_false_iff b).mpr hb)]
  rfl

/-- The ninth byte, which asks for a tenth. -/
theorem exec_vrdByte_ninth (hi : s.vrdCnt.toNat = 8) (hb : 0x80 ≤ b.toNat) :
    exec (.vrdByte b) s = .next (failed
      { s with
        vrdAcc := BitVec.ofNat 63 (withGroup s.vrdAcc.toNat b 8)
        vrdCnt := 9
        vrdState := .error }
      .varintTooLong) := by
  have hmore : ¬continuation b = false := by rwa [continuation_eq_false_iff, Nat.not_lt]
  rw [← or_group_eq _ _ le_rfl]
  refine exec_of_fail ?_
  rw [effect, effectVrdByte, if_pos hactive, if_neg hmore, hi, if_pos rfl]
  rfl

/-- An earlier byte that asks for one more. -/
theorem exec_vrdByte_more (hi : s.vrdCnt.toNat < 8) (hb : 0x80 ≤ b.toNat) :
    exec (.vrdByte b) s = .next (answered
      { s with
        vrdAcc := BitVec.ofNat 63 (withGroup s.vrdAcc.toNat b s.vrdCnt.toNat)
        vrdCnt := BitVec.ofNat 4 (s.vrdCnt.toNat + 1) }
      ⟨.more, 0, 0, BitVec.ofNat 4 (s.vrdCnt.toNat + 1)⟩) := by
  have hmore : ¬continuation b = false := by rwa [continuation_eq_false_iff, Nat.not_lt]
  rw [← or_group_eq _ _ hi.le]
  refine exec_of_respond ?_
  rw [effect, effectVrdByte, if_pos hactive, if_neg hmore, if_neg (by omega)]
  rfl

theorem exec_vrdEof_of_active : exec .vrdEof s = .next (failed { s with vrdState := .error } .truncated) :=
  exec_of_fail (if_pos hactive)

end

/-- Settles O38: the four ways a byte can be read. -/
theorem vrdByteReadsOneByte : Obligations.VrdByteReadsOneByte :=
  ⟨fun _ _ => exec_vrdByte_last, fun _ _ => exec_vrdByte_ninth, fun _ _ => exec_vrdByte_more,
    fun b _ h => exec_of_fail (effectVrdByte_of_not_active b h), byteEncoding_of decodeFields_vrdByte, rfl⟩

/-- Settles O39, by the two branches of the effect. -/
theorem vrdEofTruncatesOrFails : Obligations.VrdEofTruncatesOrFails :=
  ⟨fun _ => exec_vrdEof_of_active, fun _ h => exec_of_fail (effectVrdEof_of_not_active h),
    plainEncoding_of decodeFields_vrdEof, rfl⟩

/-- Settles O40, by the two branches of the effect. -/
theorem vrdGetRespondsTheValue : Obligations.VrdGetRespondsTheValue := by
  refine ⟨fun s h => ?_, fun s h => exec_of_fail (if_neg h), plainEncoding_of decodeFields_vrdGet, rfl⟩
  rw [BitVec.ofNat_toNat]
  exact exec_of_respond (if_pos h)

/-- Settles O42: only three commands write `VRD_STATE`, and the last two move it only in ACTIVE. -/
theorem readerStateMovesOnlyAsTabled : Obligations.ReaderStateMovesOnlyAsTabled := by
  intro i s t h hmoved
  rw [exec_eq] at h
  cases h
  rw [State.after_toRegisters] at hmoved ⊢
  rcases vrd_cases i with rfl | ⟨b, rfl⟩ | rfl | ⟨-, -, hkept⟩
  · exact .inl ⟨rfl, rfl⟩
  · have hactive : s.vrdState = .active := by
      by_contra hne
      exact hmoved (congrArg (fun f : Effect => f.regs.vrdState) (effectVrdByte_of_not_active b hne))
    obtain ⟨-, -, hnext⟩ := effectVrdByte_of_active b hactive
    refine .inr (.inl ⟨b, rfl, hactive, ?_⟩)
    simp only [effect, hnext, continuation_eq_false_iff] at hmoved ⊢
    split_ifs at hmoved ⊢ with hlast hninth
    · exact .inl ⟨hlast, rfl⟩
    · exact .inr ⟨Nat.le_of_not_lt hlast, by omega, rfl⟩
    · exact absurd hactive.symm hmoved
  · have hactive : s.vrdState = .active := by
      by_contra hne
      exact hmoved (congrArg (fun f : Effect => f.regs.vrdState) (effectVrdEof_of_not_active hne))
    refine .inr (.inr ⟨rfl, hactive, ?_⟩)
    rw [effect, effectVrdEof, if_pos hactive]
    rfl
  · exact absurd (Registers.vrdState_eq_of_reg (effect_reg_of_not_written _ hkept (by decide))) hmoved

end Sys2Proof.Machine
end

section
/-! Proofs: the encoding (40_varint.md R80 to R83, R89). An encoding is the minimal varint of its value; its format and its
decode laws are those of every minimal varint. -/

namespace Sys2Proof.Machine

/-- The bytes are the minimal varint of the number (R80, R83): one last byte below 0x80, or a byte from 0x80 on and the
minimal varint of what is left, which is not 0. -/
inductive IsVarint : Nat → List Byte → Prop where
  | last (b : Byte) (hb : b.toNat < 128) : IsVarint b.toNat [b]
  | more (b : Byte) {v : Nat} {bs : List Byte} (hb : 128 ≤ b.toNat) (hv : 0 < v) (rest : IsVarint v bs) :
      IsVarint (b.toNat % 128 + 128 * v) (b :: bs)

theorem isVarint_of_lt {v : Data} (hv : v.toNat < 128) : IsVarint v.toNat [v.setWidth 8] := by
  have hbyte := last_toNat hv
  exact hbyte ▸ .last _ (hbyte ▸ hv)

theorem isVarint_encLoop {rounds : Nat} {v : Data} (h : v.toNat < 2 ^ (7 * (rounds + 1))) :
    IsVarint v.toNat (encLoop rounds v) := by
  induction rounds generalizing v with
  | zero => exact isVarint_of_lt h
  | succ rounds ih =>
    rw [encLoop]
    split
    next hmore =>
      rw [Nat.mul_succ, Nat.pow_add] at h
      have hbyte := more_toNat v
      have hrest := shr7_toNat v
      have hvalue : v.toNat = ((v.setWidth 8 &&& 0x7F) ||| 0x80 : Byte).toNat % 128 + 128 * (v >>> 7).toNat := by
        omega
      rw [hvalue]
      exact .more _ (by omega) (by omega) (ih (by omega))
    next hv => exact isVarint_of_lt (Nat.lt_of_not_le hv)

/-- Ten groups hold every 64-bit value. -/
theorem isVarint_enc (v : Data) : IsVarint v.toNat (enc v) :=
  isVarint_encLoop (v.isLt.trans (by decide))

/-! ### The format of a minimal varint -/

section
variable {v : Nat} {bs : List Byte} (h : IsVarint v bs)
include h

theorem IsVarint.ne_nil : bs ≠ [] := by
  cases h <;> exact List.cons_ne_nil _ _

theorem IsVarint.length_pos : 1 ≤ bs.length := List.length_pos_of_ne_nil h.ne_nil

theorem IsVarint.lt_two_pow : v < 2 ^ (7 * bs.length) := by
  induction h with
  | last b hb => exact hb
  | more b hb hv rest ih =>
    rw [List.length_cons, Nat.mul_succ, Nat.pow_add]
    omega

/-- No fewer groups hold the value. -/
theorem IsVarint.length_le {n : Nat} (hn : 1 ≤ n) (hlt : v < 2 ^ (7 * n)) : bs.length ≤ n := by
  induction h generalizing n with
  | last b hb => exact hn
  | more b hb hv rest ih =>
    obtain ⟨m, rfl⟩ := Nat.exists_eq_add_of_le' hn
    rw [Nat.mul_succ, Nat.pow_add] at hlt
    have hm : m ≠ 0 := by
      rintro rfl
      omega
    exact Nat.succ_le_succ (ih (by omega) (by omega))

/-- Byte `i` carries group `i` of the value, and asks for one more byte exactly where one follows. -/
theorem IsVarint.getElem?_eq {i : Nat} {b : Byte} (hi : bs[i]? = some b) :
    b.toNat % 128 = v / 2 ^ (7 * i) % 128 ∧ (128 ≤ b.toNat ↔ i + 1 < bs.length) := by
  induction h generalizing i with
  | last c hc =>
    obtain ⟨rfl, rfl⟩ : i = 0 ∧ c = b := by simpa [List.getElem?_singleton] using hi
    simp
    omega
  | more c hc hv rest ih =>
    have hpos := rest.length_pos
    cases i with
    | zero =>
      cases hi
      simp
      omega
    | succ i =>
      obtain ⟨hgroup, hmore⟩ := ih hi
      rw [hgroup, hmore, Nat.mul_succ, Nat.add_comm (7 * i), Nat.pow_add, ← Nat.div_div_eq_div_mul, List.length_cons]
      refine ⟨?_, by omega⟩
      congr 2
      omega

theorem IsVarint.getLast?_eq_zero_iff : bs.getLast? = some 0#8 ↔ v = 0 := by
  induction h with
  | last b hb => simp [← BitVec.toNat_inj]
  | more b hb hv rest ih =>
    rw [List.getLast?_cons_of_ne_nil rest.ne_nil, ih]
    omega

/-- No byte after the first is zero, nor the first of a value that is not 0 (R89): a byte asks for one more, or it is the
last of a value that is not 0. -/
theorem IsVarint.getElem?_ne_zero {i : Nat} (hi : 0 < i ∨ 0 < v) : bs[i]? ≠ some 0#8 := by
  induction h generalizing i with
  | last b hb =>
    cases i with
    | zero =>
      intro hzero
      cases hzero
      simp at hi
    | succ i => simp
  | more b hb hv rest ih =>
    cases i with
    | zero =>
      intro hzero
      cases hzero
      exact absurd hb (by decide)
    | succ i => exact ih (.inr hv)

/-- The inputs of R89 are no minimal varints: each has a byte whose continuation bit is wrong for its place. -/
theorem IsVarint.not_mem_nonminimal :
    bs ∉ [[0x05#8, 0x03#8], [0x80#8, 0x00#8, 0x01#8], [0x00#8, 0x05#8], List.replicate 9 0xFF#8] := by
  intro hmem
  simp only [List.mem_cons, List.not_mem_nil, or_false] at hmem
  rcases hmem with rfl | rfl | rfl | rfl
  · exact absurd (h.getElem?_eq (i := 0) rfl).2 (by decide)
  · exact absurd (h.getElem?_eq (i := 1) rfl).2 (by decide)
  · exact absurd (h.getElem?_eq (i := 0) rfl).2 (by decide)
  · exact absurd (h.getElem?_eq (i := 8) rfl).2 (by decide)

/-! ### Decoding a minimal varint -/

/-- The buffer decoder adds the value at its position: it stops at no byte. -/
theorem IsVarint.decLoop_eq {i acc : Nat} (hacc : acc < 2 ^ (7 * i)) (hi : 1 ≤ i → 0 < v) :
    decLoop i acc bs = acc + v * 2 ^ (7 * i) := by
  induction h generalizing i acc with
  | last b hb =>
    have hgo : ¬(1 ≤ i ∧ b = 0) := by
      rintro ⟨hpos, rfl⟩
      exact absurd (hi hpos) (by decide)
    rw [decLoop, if_neg hgo, decLoop, withGroup_eq_add b hacc, Nat.mod_eq_of_lt hb]
  | more b hb hv rest ih =>
    have hgo : ¬(1 ≤ i ∧ b = 0) := by
      rintro ⟨-, rfl⟩
      exact absurd hb (by decide)
    rw [decLoop, if_neg hgo, ih (withGroup_lt b hacc) fun _ => hv, withGroup_eq_add b hacc]
    ring

theorem IsVarint.dec_eq (hlen : bs.length ≤ 9) : dec bs = some v := by
  rw [dec, if_neg (Nat.not_lt.mpr hlen), h.decLoop_eq Nat.one_pos (by omega)]
  simp

/-- The stream reader adds the value at its position and consumes the varint and nothing after it. -/
theorem IsVarint.rdLoop_append {rounds i acc : Nat} (hacc : acc < 2 ^ (7 * i)) (hlen : bs.length ≤ rounds)
    (after : List Byte) :
    rdLoop rounds i acc (bs ++ after) = .value (acc + v * 2 ^ (7 * i)) (i + bs.length) := by
  induction h generalizing rounds i acc with
  | last b hb =>
    obtain ⟨rounds, rfl⟩ := Nat.exists_eq_add_of_le' hlen
    rw [List.singleton_append, List.length_singleton, rdLoop, if_pos hb, withGroup_eq_add b hacc, Nat.mod_eq_of_lt hb]
  | @more b v bs hb hv rest ih =>
    obtain ⟨rounds, rfl⟩ := Nat.exists_eq_add_of_le' (Nat.le_of_add_left_le hlen)
    rw [List.cons_append, rdLoop, if_neg (Nat.not_lt.mpr hb),
      ih (withGroup_lt b hacc) (Nat.le_of_succ_le_succ hlen), withGroup_eq_add b hacc, List.length_cons]
    congr 1
    · ring
    · omega

theorem IsVarint.rd_append (hlen : bs.length ≤ 9) (after : List Byte) : rd (bs ++ after) = .value v bs.length := by
  rw [rd, h.rdLoop_append Nat.one_pos hlen]
  simp

end

/-! ### The statements about `enc` -/

/-- Settles O31: the format of a minimal varint. -/
theorem encodingFollowsTheFormat : Obligations.EncodingFollowsTheFormat := by
  intro v hv
  have henc := isVarint_enc v
  refine ⟨henc.length_pos, enc_length_le hv, fun _ _ => henc.getElem?_eq, henc.lt_two_pow, fun _ => henc.length_le, ?_⟩
  rw [henc.getLast?_eq_zero_iff, ← BitVec.toNat_inj]
  rfl

/-- Settles O32: the decode laws of a minimal varint; the listed inputs are decoded by computation. -/
theorem decodeLaws : Obligations.DecodeLaws := by
  refine ⟨fun v hv => ?_, by decide⟩
  have henc := isVarint_enc v
  have hlen := enc_length_le hv
  exact ⟨henc.dec_eq hlen, hlen, fun _ hi => henc.getElem?_ne_zero (.inl hi), henc.not_mem_nonminimal⟩

/-! ### The response of VENC -/

theorem packNat_eq_sum (bs : List Byte) :
    packNat bs = ∑ i ∈ Finset.range bs.length, (bs.getD i 0).toNat * 2 ^ (8 * i) := by
  induction bs with
  | nil => rfl
  | cons b bs ih =>
    rw [packNat, ih, List.length_cons, Finset.sum_range_succ', Finset.mul_sum, Nat.add_comm]
    congr 1
    · refine Finset.sum_congr rfl fun i _ => ?_
      rw [List.getD_cons_succ]
      ring
    · simp

/-- The lanes of the data field (R82). -/
theorem pack_take_eight (bs : List Byte) : pack (bs.take 8) =
    BitVec.ofNat 64 (∑ i ∈ Finset.range (min bs.length 8), (bs.getD i 0).toNat * 2 ^ (8 * i)) := by
  rw [pack, packNat_eq_sum, List.length_take, Nat.min_comm]
  congr 1
  refine Finset.sum_congr rfl fun i hi => ?_
  have hi8 : i < 8 := by
    rw [Finset.mem_range] at hi
    omega
  simp [List.getD_eq_getElem?_getD, List.getElem?_take_of_lt hi8]

theorem exec_venc {v : Data} (s : State) (h : v.toNat < 2 ^ 63) :
    exec (.venc v) s = .next (answered s ⟨.ok, pack ((enc v).take 8), (enc v).getD 8 0, count (enc v).length⟩) :=
  exec_of_respond (if_neg (Nat.not_le.mpr h))

/-- Settles O30: the two branches of the effect, with the data field as a sum. -/
theorem vencRespondsTheEncoding : Obligations.VencRespondsTheEncoding := by
  refine ⟨fun v s h => ?_, fun v s h => exec_of_fail (if_pos h), plainEncoding_of decodeFields_venc, rfl⟩
  rw [exec_venc s h, pack_take_eight]
  rfl

end Sys2Proof.Machine
end

section
/-! Proofs: the buffer decoder computes `dec` (40_varint.md R84, R85). The registers after a byte sequence are those of its
pushed bytes, and each pushed byte is one round of `dec`. -/

namespace Sys2Proof.Machine

/-! ### Runs of pushes -/

theorem execAll_cons (i : Instr) (is : List Instr) (s : State) :
    execAll (i :: is) s = execAll is (s.after (effect i s.toRegisters)) := by
  rw [execAll, exec_eq]

/-- A register that no command of a run writes is left alone, but for `STICKY`. -/
theorem execAll_reg_of_not_written {is : List Instr} {s t : State} (h : execAll is s = .next t) {r : Reg}
    (hw : ∀ i ∈ is, r ∉ writes i) (hs : r ≠ .sticky) : t.reg r = s.reg r := by
  induction is generalizing s with
  | nil =>
    cases h
    rfl
  | cons i is ih =>
    rw [execAll_cons] at h
    rw [ih h fun j hj => hw j (List.mem_cons_of_mem i hj), State.reg_eq, State.reg_eq, State.after_toRegisters]
    exact effect_reg_of_not_written _ (hw i List.mem_cons_self) hs

/-- The registers after a run of pushed bytes. -/
def Registers.pushAll (g : Registers) (bs : List Byte) : Registers := bs.foldl Registers.pushByte g

@[simp] theorem Registers.pushAll_cons (g : Registers) (b : Byte) (bs : List Byte) :
    g.pushAll (b :: bs) = (g.pushByte b).pushAll bs := rfl

theorem execAll_vdecPush (bs : List Byte) (s : State) :
    ∃ t, execAll (bs.map .vdecPush) s = .next t ∧ t.toRegisters = s.toRegisters.pushAll bs := by
  induction bs generalizing s with
  | nil => exact ⟨s, rfl, rfl⟩
  | cons b bs ih =>
    rw [List.map_cons, execAll_cons]
    exact ih _

/-- `vdec.buf` is VDEC.FIN on the registers of the bytes pushed from a clear decoder. -/
theorem execAll_vdecBuf (bs : List Byte) (s : State) :
    ∃ u, u.toRegisters = (effect .vdecClr s.toRegisters).regs.pushAll bs ∧
      execAll (vdecBuf bs) s = exec .vdecFin u := by
  obtain ⟨u, hu, hregs⟩ := execAll_vdecPush bs (s.after (effect .vdecClr s.toRegisters))
  refine ⟨u, hregs, ?_⟩
  rw [vdecBuf, execAll_cons, execAll_append _ _ _ u hu, execAll_cons, execAll, exec_eq]

/-! ### What the pushed bytes leave -/

theorem pushByte_vdecCnt_toNat (g : Registers) (b : Byte) :
    (g.pushByte b).vdecCnt.toNat = min (g.vdecCnt.toNat + 1) 10 := by
  rw [pushByte_vdecCnt, count_toNat (by omega)]

theorem pushByte_vdecStop (g : Registers) (b : Byte) :
    (g.pushByte b).vdecStop = (g.vdecStop || (decide (1 ≤ g.vdecCnt.toNat) && decide (b = 0))) := by
  rw [Registers.pushByte_eq]

theorem pushAll_sticky (g : Registers) (bs : List Byte) : (g.pushAll bs).sticky = g.sticky := by
  induction bs generalizing g with
  | nil => rfl
  | cons b bs ih => rw [Registers.pushAll_cons, ih, Registers.pushByte_sticky]

theorem pushAll_vdecCnt {g : Registers} (h : g.vdecCnt.toNat ≤ 10) (bs : List Byte) :
    (g.pushAll bs).vdecCnt.toNat = min (g.vdecCnt.toNat + bs.length) 10 := by
  induction bs generalizing g with
  | nil => exact (Nat.min_eq_left h).symm
  | cons b bs ih =>
    have hcnt := pushByte_vdecCnt_toNat g b
    rw [Registers.pushAll_cons, ih (by omega), List.length_cons]
    omega

/-- The decoder is stopped exactly where it was, or where a byte after the first is zero. -/
theorem pushAll_vdecStop (g : Registers) (bs : List Byte) :
    (g.pushAll bs).vdecStop = true ↔
      g.vdecStop = true ∨ ∃ i, 1 ≤ g.vdecCnt.toNat + i ∧ bs[i]? = some 0#8 := by
  induction bs generalizing g with
  | nil => simp [Registers.pushAll]
  | cons b bs ih =>
    have hcnt := pushByte_vdecCnt_toNat g b
    rw [Registers.pushAll_cons, ih, pushByte_vdecStop]
    simp only [Bool.or_eq_true, Bool.and_eq_true, decide_eq_true_eq, or_assoc]
    refine or_congr_right ?_
    constructor
    · rintro (⟨hpos, rfl⟩ | ⟨i, -, hi⟩)
      · exact ⟨0, hpos, rfl⟩
      · exact ⟨i + 1, by omega, hi⟩
    · rintro ⟨_ | i, hpos, hi⟩
      · exact .inl ⟨hpos, Option.some.inj hi⟩
      · exact .inr ⟨i, by omega, hi⟩

/-- Up to the ninth byte, the pushed bytes are accumulated as `dec` accumulates them; a stopped decoder is unchanged. -/
theorem pushAll_vdecAcc {g : Registers} {bs : List Byte} (h : g.vdecCnt.toNat + bs.length ≤ 9) :
    (g.pushAll bs).vdecAcc.toNat =
      if g.vdecStop = true then g.vdecAcc.toNat else decLoop g.vdecCnt.toNat g.vdecAcc.toNat bs := by
  induction bs generalizing g with
  | nil => simp [Registers.pushAll, decLoop]
  | cons b bs ih =>
    rw [List.length_cons] at h
    have hi : g.vdecCnt.toNat ≤ 8 := by omega
    have hcnt : (g.pushByte b).vdecCnt.toNat = g.vdecCnt.toNat + 1 := by
      rw [pushByte_vdecCnt_toNat]
      omega
    have hacc : (g.pushByte b).vdecAcc =
        if g.vdecStop = false ∧ ¬(1 ≤ g.vdecCnt.toNat ∧ b = 0) then g.vdecAcc ||| group b g.vdecCnt.toNat
        else g.vdecAcc := by
      rw [Registers.pushByte_eq, or_group_eq _ b hi]
      simp [hi]
    rw [Registers.pushAll_cons, ih (by omega), hcnt, pushByte_vdecStop, ← Bool.decide_and, hacc, decLoop]
    by_cases hstop : g.vdecStop = true
    · simp [hstop]
    · by_cases hzero : 1 ≤ g.vdecCnt.toNat ∧ b = 0
      · simp [hstop, hzero]
      · simp only [hzero, ← or_group _ b hi]
        simp [hstop]

/-- `vdec.buf` writes the registers of the buffer decoder only. -/
theorem writes_vdecBuf {bs : List Byte} {i : Instr} (hi : i ∈ vdecBuf bs) :
    writes i ⊆ [Reg.vdecAcc, .vdecCnt, .vdecStop] := by
  simp only [vdecBuf, List.mem_cons, List.mem_append, List.mem_map, List.not_mem_nil, or_false] at hi
  rcases hi with rfl | ⟨b, -, rfl⟩ | rfl
  · exact fun _ h => h
  · exact fun _ h => h
  · exact List.nil_subset _

/-- Settles O36: up to nine bytes VDEC.FIN answers what the pushed bytes accumulated, above it fails; both leave the count,
the stop bit and the frame. -/
theorem bufferDecoderComputesDec : Obligations.BufferDecoderComputesDec := by
  intro bytes s
  obtain ⟨u, hregs, hrun⟩ := execAll_vdecBuf bytes s
  have hcnt : u.vdecCnt.toNat = min bytes.length 10 := by
    rw [hregs, pushAll_vdecCnt (Nat.zero_le _)]
    exact congrArg (min · 10) (Nat.zero_add _)
  have hstop : u.vdecStop = true ↔ ∃ i, 1 ≤ i ∧ bytes[i]? = some 0#8 := by
    rw [hregs, pushAll_vdecStop]
    simp [effect, effectVdecClr]
  have hframe {t : State} (ht : execAll (vdecBuf bytes) s = .next t) :
      ∀ r ∈ [Reg.crc32Acc, .crc64Acc, .vrdAcc, .vrdCnt, .vrdState], t.reg r = s.reg r := by
    have hother : ∀ r ∈ [Reg.crc32Acc, .crc64Acc, .vrdAcc, .vrdCnt, .vrdState],
        r ∉ [Reg.vdecAcc, .vdecCnt, .vdecStop] := by decide
    refine fun r hr => execAll_reg_of_not_written ht (fun i hi hw => hother r hr (writes_vdecBuf hi hw)) ?_
    rintro rfl
    exact absurd hr (by decide)
  by_cases hlen : bytes.length ≤ 9
  · have hok := hrun.trans (exec_vdecFin_of_le (by omega))
    refine ⟨_, hok, fun v hv => ?_, fun hnone => ?_, hcnt, hstop, hframe hok⟩
    · rw [dec, if_neg (by omega), Option.some.injEq] at hv
      have hacc : u.vdecAcc.toNat = v := by
        have hle : (effect .vdecClr s.toRegisters).regs.vdecCnt.toNat + bytes.length ≤ 9 :=
          (Nat.zero_add _).trans_le hlen
        rw [hregs, pushAll_vdecAcc hle, ← hv]
        rfl
      have hcount : u.vdecCnt = BitVec.ofNat 4 bytes.length := by
        apply BitVec.eq_of_toNat_eq
        rw [hcnt, ← count, count_toNat (Nat.lt_of_le_of_lt hlen (by decide)),
          Nat.min_eq_left (hlen.trans (by decide))]
      refine ⟨?_, hacc ▸ u.vdecAcc.isLt, ?_⟩
      · rw [answered_flight, hacc, hcount]
      · rw [answered_toRegisters, hregs, pushAll_sticky]
        rfl
    · rw [dec, if_neg (by omega)] at hnone
      cases hnone
  · have hfail := hrun.trans (exec_vdecFin_of_gt (by omega))
    refine ⟨_, hfail, fun v hv => ?_, fun _ => rfl, hcnt, hstop, hframe hfail⟩
    rw [dec, if_pos (by omega)] at hv
    cases hv

end Sys2Proof.Machine
end

section
/-! Proofs: the reader protocol computes `rd` (40_varint.md R90, R91). One VRD.BYTE is one round of `rd`, from any place in a
read. -/

namespace Sys2Proof.Machine

/-! ### One round of the protocol -/

theorem readBytes_cons_of_more {b : Byte} {bs : List Byte} {s t : State} {r : Response}
    (h : exec (.vrdByte b) s = .next t) (hflight : t.flight = some r) (hmore : r.status = .more) :
    readBytes (b :: bs) s = readBytes bs t := by
  simp [readBytes, h, hflight, hmore]

theorem readBytes_cons_of_end {b : Byte} {bs : List Byte} {s t : State} {r : Response}
    (h : exec (.vrdByte b) s = .next t) (hflight : t.flight = some r) (hend : r.status ≠ .more) :
    readBytes (b :: bs) s = some (t, bs) := by
  simp [readBytes, h, hflight, hend]

/-- What the accumulator holds after a byte, as a number. -/
theorem ofNat_withGroup_toNat (acc : VarintAcc) (b : Byte) {i : Nat} (hi : i ≤ 8) :
    (BitVec.ofNat 63 (withGroup acc.toNat b i)).toNat = withGroup acc.toNat b i := by
  rw [← or_group_eq _ _ hi, or_group _ _ hi]

theorem withGroup_toNat_lt (acc : VarintAcc) (b : Byte) {i : Nat} (hi : i ≤ 8) : withGroup acc.toNat b i < 2 ^ 63 :=
  or_group acc b hi ▸ BitVec.isLt _

/-! ### The protocol from any place in a read -/

/-- The protocol on the source, from a state that has read `VRD_CNT` bytes, ends as the outcome of `rd` says: what it leaves
unread, its last response, and the reader (R91; 60_exceptions.md R167). -/
def Realises (source : List Byte) (s : State) : ReadOutcome → Prop
  | .value v n => ∃ t, readBytes source s = some (t, source.drop (n - s.vrdCnt.toNat)) ∧
      t.flight = some ⟨.ok, BitVec.ofNat 64 v, 0, BitVec.ofNat 4 n⟩ ∧ t.vrdState = .done ∧
      v < 2 ^ 63 ∧ s.vrdCnt.toNat < n ∧ n ≤ 9
  | .tooLong => ∃ t, readBytes source s = some (t, source.drop (9 - s.vrdCnt.toNat)) ∧
      t.flight = some (bare (.error .varintTooLong)) ∧ t.vrdState = .error ∧ t.vrdCnt = 9
  | .truncated => ∃ t, readBytes source s = some (t, []) ∧ t.vrdState = .active ∧
      t.vrdCnt.toNat = s.vrdCnt.toNat + source.length

/-- A byte that asks for more passes the rest of the source on. -/
theorem Realises.of_more {b : Byte} {bs : List Byte} {s t : State} {o : ReadOutcome}
    (hread : readBytes (b :: bs) s = readBytes bs t) (hcnt : t.vrdCnt.toNat = s.vrdCnt.toNat + 1)
    (hi : s.vrdCnt.toNat < 8) (h : Realises bs t o) : Realises (b :: bs) s o := by
  have hdrop {n : Nat} (hn : s.vrdCnt.toNat < n) :
      (b :: bs).drop (n - s.vrdCnt.toNat) = bs.drop (n - t.vrdCnt.toNat) := by
    rw [show n - s.vrdCnt.toNat = n - t.vrdCnt.toNat + 1 by omega, List.drop_succ_cons]
  cases o with
  | value v n =>
    obtain ⟨u, hu, hflight, hstate, hlt, hpos, hle⟩ := h
    have hn : s.vrdCnt.toNat < n := by omega
    exact ⟨u, by rw [hread, hu, hdrop hn], hflight, hstate, hlt, hn, hle⟩
  | tooLong =>
    obtain ⟨u, hu, hend⟩ := h
    exact ⟨u, by rw [hread, hu, hdrop (by omega)], hend⟩
  | truncated =>
    obtain ⟨u, hu, hactive, hlen⟩ := h
    refine ⟨u, by rw [hread, hu], hactive, ?_⟩
    rw [hlen, hcnt, List.length_cons]
    omega

/-- In ACTIVE, with the read at `rd`'s place in its rounds, the protocol realises the rounds that are left. -/
theorem realises_rdLoop (source : List Byte) {s : State} {rounds i acc : Nat} (hactive : s.vrdState = .active)
    (hcnt : s.vrdCnt.toNat = i) (hacc : s.vrdAcc.toNat = acc) (hrounds : rounds + 1 + i = 9) :
    Realises source s (rdLoop (rounds + 1) i acc source) := by
  induction source generalizing s rounds i acc with
  | nil => exact ⟨s, rfl, hactive, rfl⟩
  | cons b bs ih =>
    subst hcnt hacc
    have hi : s.vrdCnt.toNat ≤ 8 := by omega
    rw [rdLoop]
    split
    next hb =>
      have hread := readBytes_cons_of_end (bs := bs) (exec_vrdByte_last hactive hi hb) rfl nofun
      simp only [Realises, Nat.add_sub_cancel_left, List.drop_one, List.tail_cons]
      exact ⟨_, hread, rfl, rfl, withGroup_toNat_lt _ b hi, by omega, by omega⟩
    next hb =>
      have hmore := Nat.le_of_not_lt hb
      cases rounds with
      | zero =>
        have hninth : s.vrdCnt.toNat = 8 := by omega
        have hread := readBytes_cons_of_end (bs := bs) (exec_vrdByte_ninth hactive hninth hmore) rfl nofun
        simp only [rdLoop, Realises, hninth, Nat.reduceSub, List.drop_one, List.tail_cons]
        exact ⟨_, hread, rfl, rfl, rfl⟩
      | succ rounds =>
        have hearlier : s.vrdCnt.toNat < 8 := by omega
        have hcount : (BitVec.ofNat 4 (s.vrdCnt.toNat + 1)).toNat = s.vrdCnt.toNat + 1 := count_toNat (by omega)
        have hread := readBytes_cons_of_more (bs := bs) (exec_vrdByte_more hactive hearlier hmore) rfl rfl
        exact .of_more hread hcount hearlier (ih hactive hcount (ofNat_withGroup_toNat _ b hi) (by omega))

/-- Settles O41: VRD.START begins a read at its first byte, and VRD.EOF ends a truncated one. -/
theorem readerComputesRd : Obligations.ReaderComputesRd := by
  intro source s
  refine ⟨_, exec_vrdStart s, ?_⟩
  have h : Realises source (answered { s with vrdAcc := 0, vrdCnt := 0, vrdState := .active } (bare .ok)) (rd source) :=
    realises_rdLoop source rfl rfl rfl rfl
  refine ⟨fun v n hv => ?_, fun hlong => ?_, fun htruncated => ?_⟩
  · rw [hv] at h
    exact h
  · rw [hlong] at h
    exact h
  · rw [htruncated] at h
    obtain ⟨t, hread, hactive, hcnt⟩ := h
    exact ⟨t, _, hread, hactive, hcnt.trans (Nat.zero_add _), exec_vrdEof_of_active hactive, rfl, rfl, rfl⟩

end Sys2Proof.Machine
end

section
/-! Proofs: the bytes VENC answers read back in both decoders (40_varint.md R97). -/

namespace Sys2Proof.Machine

/-- The lanes and the extension byte of VENC's response hold its encoding (R82; 20_memory.md R49). -/
theorem responseBytes_venc {bs : List Byte} (h : bs.length ≤ 9) :
    responseBytes ⟨.ok, pack (bs.take 8), bs.getD 8 0, count bs.length⟩ = bs := by
  have hlen : (count bs.length).toNat = bs.length := count_toNat (by omega)
  apply List.ext_getElem
  · simp [responseBytes, hlen]
  · intro j hj hj'
    simp only [responseBytes, List.getElem_map, List.getElem_range]
    split
    next h8 => rw [lane_pack _ (List.length_take_le 8 bs) j (by simp; omega), List.getElem_take]
    next h8 =>
      obtain rfl : j = 8 := by omega
      exact List.getD_eq_getElem bs 0 hj'

/-- A read that leaves no byte is the run of VRD.BYTE for each. -/
theorem execAll_of_readBytes {bs : List Byte} {s t : State} (h : readBytes bs s = some (t, [])) :
    execAll (bs.map .vrdByte) s = .next t := by
  induction bs generalizing s with
  | nil =>
    cases h
    rfl
  | cons b bs ih =>
    rw [readBytes, exec_eq] at h
    rw [List.map_cons, execAll_cons]
    dsimp only at h
    split at h
    · exact ih h
    · cases h
      rfl

/-- The reader protocol on a minimal varint and more: the value, and what follows unread. -/
theorem IsVarint.readBytes_append {v : Data} {bs : List Byte} (h : IsVarint v.toNat bs) (hlen : bs.length ≤ 9)
    (s : State) (after : List Byte) : ∃ s₀ u, exec .vrdStart s = .next s₀ ∧
      readBytes (bs ++ after) s₀ = some (u, after) ∧ u.flight = some ⟨.ok, v, 0, count bs.length⟩ := by
  obtain ⟨s₀, hstart, hvalue, -, -⟩ := readerComputesRd (bs ++ after) s
  obtain ⟨u, hread, hflight, -⟩ := hvalue v.toNat bs.length (h.rd_append hlen after)
  refine ⟨s₀, u, hstart, by rw [hread, List.drop_left], ?_⟩
  rw [hflight, BitVec.ofNat_toNat, BitVec.setWidth_eq]
  rfl

/-- Settles O43: the response holds the encoding, a minimal varint, on which each decoder computes its function. -/
theorem encodedValuesReadBack : Obligations.EncodedValuesReadBack := by
  refine ⟨fun v s hv => ?_, by decide⟩
  have henc := isVarint_enc v
  have hlen := enc_length_le hv
  refine ⟨_, _, exec_venc s hv, rfl, ?_⟩
  rw [responseBytes_venc hlen]
  refine ⟨?_, ?_, henc.readBytes_append hlen _⟩
  · obtain ⟨u, hu, hvalue, -⟩ := bufferDecoderComputesDec (enc v) _
    obtain ⟨hflight, -, -⟩ := hvalue v.toNat (henc.dec_eq hlen)
    refine ⟨u, hu, ?_⟩
    rw [hflight, BitVec.ofNat_toNat, BitVec.setWidth_eq]
    rfl
  · obtain ⟨s₀, u, hstart, hread, hflight⟩ := henc.readBytes_append hlen _ []
    rw [List.append_nil] at hread
    refine ⟨u, ?_, hflight⟩
    rw [vrdBytes, execAll, hstart]
    exact execAll_of_readBytes hread

end Sys2Proof.Machine
end

section
/-! Proofs: the CRC-32 commands, one at a time (41_crc32.md R113 to R115), and the table form of the per-byte step at both
widths (41_crc32.md R112, 42_crc64.md R132). -/

namespace Sys2Proof.Machine

/-- The per-byte step as R112 and R132 write it: the table's entry at the low byte of `c ^ m`, and the rest shifted down. -/
theorem crcStep_eq_table {n : Nat} (hn : 8 ≤ n) (p c : BitVec n) (m : Byte) :
    crcStep p c m = crcTable p ((c ^^^ m.setWidth n).extractLsb' 0 8) ^^^ (c >>> 8) := by
  rw [crcStep, BitVec.setWidth_eq_extractLsb' hn]

/-- Settles O24: the two forms of the step, by their lemmas for any width, at the two polynomials. -/
theorem tableStepIsBitwiseStep : Obligations.TableStepIsBitwiseStep :=
  ⟨fun c m => ⟨crcStep_eq_table (by decide) poly32 c m, crcStep_eq_bitwise poly32 c m⟩,
    fun c m => ⟨crcStep_eq_table (by decide) poly64 c m, crcStep_eq_bitwise poly64 c m⟩⟩

theorem exec_crc32Upd_of_le {k : Byte} (d : Data) (s : State) (h : k.toNat ≤ 8) :
    exec (.crc32Upd k d) s = .next (answered
      { s with crc32Acc := crcBitwise poly32 s.crc32Acc (lanes d k.toNat) } (bare .ok)) := by
  rw [← crc_eq_bitwise]
  exact exec_of_respond (if_pos h)

theorem exec_crc32Upd_of_gt {k : Byte} (d : Data) (s : State) (h : 8 < k.toNat) :
    exec (.crc32Upd k d) s = .next (failed s .illegalCommand) :=
  exec_of_fail (if_neg (Nat.not_le.mpr h))

/-- Settles O19, by the two branches of the effect. -/
theorem crc32UpdAbsorbsTheLanes : Obligations.Crc32UpdAbsorbsTheLanes :=
  ⟨fun _ => exec_crc32Upd_of_le, fun _ => exec_crc32Upd_of_gt, countEncoding_of decodeFields_crc32Upd, rfl⟩

/-- Settles O18: the one register write, and the encoding, whose seed is the low half of the data word. -/
theorem crc32SeedLoadsTheSeed : Obligations.Crc32SeedLoadsTheSeed := by
  refine ⟨fun _ _ => exec_of_respond rfl, plainEncoding_of fun imm d => ?_, rfl, rfl⟩
  rw [decodeFields_crc32Seed, BitVec.setWidth_eq_extractLsb' (by decide)]

/-- Settles O20: no register is written; the response's data is the accumulator, zero-extended. -/
theorem crc32GetRespondsTheChecksum : Obligations.Crc32GetRespondsTheChecksum := by
  refine ⟨fun s => ?_, plainEncoding_of decodeFields_crc32Get, rfl⟩
  rw [BitVec.ofNat_toNat]
  exact exec_of_respond rfl

end Sys2Proof.Machine
end

section
/-! Proofs: the CRC-64 commands, one at a time (42_crc64.md R133 to R135). -/

namespace Sys2Proof.Machine

theorem exec_crc64Upd_of_le {k : Byte} (d : Data) (s : State) (h : k.toNat ≤ 8) :
    exec (.crc64Upd k d) s = .next (answered
      { s with crc64Acc := crcBitwise poly64 s.crc64Acc (lanes d k.toNat) } (bare .ok)) := by
  rw [← crc_eq_bitwise]
  exact exec_of_respond (if_pos h)

theorem exec_crc64Upd_of_gt {k : Byte} (d : Data) (s : State) (h : 8 < k.toNat) :
    exec (.crc64Upd k d) s = .next (failed s .illegalCommand) :=
  exec_of_fail (if_neg (Nat.not_le.mpr h))

/-- Settles O22, by the two branches of the effect. -/
theorem crc64UpdAbsorbsTheLanes : Obligations.Crc64UpdAbsorbsTheLanes :=
  ⟨fun _ => exec_crc64Upd_of_le, fun _ => exec_crc64Upd_of_gt, countEncoding_of decodeFields_crc64Upd, rfl⟩

/-- Settles O21: the one register write, and the encoding, whose seed is the whole data word. -/
theorem crc64SeedLoadsTheSeed : Obligations.Crc64SeedLoadsTheSeed :=
  ⟨fun _ _ => exec_of_respond rfl, plainEncoding_of decodeFields_crc64Seed, rfl, rfl⟩

/-- Settles O23: no register is written; the response's data is the accumulator. -/
theorem crc64GetRespondsTheChecksum : Obligations.Crc64GetRespondsTheChecksum :=
  ⟨fun _ => exec_of_respond rfl, plainEncoding_of decodeFields_crc64Get, rfl⟩

end Sys2Proof.Machine
end

section
/-! Proofs: the control commands, one at a time (43_control.md R150 to R152). -/

namespace Sys2Proof.Machine

/-- Settles O44: no register is written, and the encoding. -/
theorem nopRespondsOkAndWritesNothing : Obligations.NopRespondsOkAndWritesNothing :=
  ⟨fun _ => exec_of_respond rfl, plainEncoding_of decodeFields_nop, rfl⟩

/-- Settles O46: the one register write, and the encoding. -/
theorem statClrClearsOnlySticky : Obligations.StatClrClearsOnlySticky :=
  ⟨fun _ => exec_of_respond rfl, plainEncoding_of decodeFields_statClr, rfl⟩

/-! ### The status view -/

theorem append_toNat_eq_add {n m : Nat} (hi : BitVec n) (lo : BitVec m) :
    (hi ++ lo).toNat = hi.toNat * 2 ^ m + lo.toNat := by
  rw [BitVec.toNat_append, ← Nat.shiftLeft_add_eq_or_of_lt lo.isLt, Nat.shiftLeft_eq]

/-- The layout of 10_state.md R35 as a sum: the bit positions are the widths of the fields below. -/
theorem statusView_toNat (g : Registers) : (statusView g).toNat =
    g.vdecStop.toNat * 2 ^ 14 + g.vdecCnt.toNat * 2 ^ 10 + g.vrdCnt.toNat * 2 ^ 6 + g.vrdState.code.toNat * 2 ^ 4
      + g.sticky.toNat := by
  simp only [statusView, append_toNat_eq_add, BitVec.toNat_ofBool, BitVec.ofNat_eq_ofNat, BitVec.toNat_ofNat,
    Nat.zero_mod]
  omega

/-- Settles O45: no register is written; the response's data is the view, whose number is the sum of its fields. -/
theorem statGetRespondsTheView : Obligations.StatGetRespondsTheView := by
  refine ⟨fun s => ?_, plainEncoding_of decodeFields_statGet, rfl⟩
  rw [← statusView_toNat, BitVec.ofNat_toNat, BitVec.setWidth_eq]
  exact exec_of_respond rfl

end Sys2Proof.Machine
end

section
/-! Proofs: illegal commands, and that no error stops the block (60_exceptions.md R161, R164). -/

namespace Sys2Proof.Machine

/-- Settles O6: an illegal word runs as the IllegalCommand failure, written out field by field. -/
theorem illegalCommandOnlyUpdatesSticky : Obligations.IllegalCommandOnlyUpdatesSticky := by
  obtain ⟨-, hfailed, -⟩ := illegalWordsAreExactlyTheListed
  exact fun c s h => ⟨_, hfailed c s h, rfl, rfl⟩

/-- Settles O50: an instruction is its effect, and a ready block runs the transaction of the command presented to it. -/
theorem errorDoesNotStopTheBlock : Obligations.ErrorDoesNotStopTheBlock :=
  ⟨fun i s => ⟨_, _, exec_eq i s, State.after_flight _ _⟩,
    fun _ _ _ _ hready hheld hin =>
      ⟨_, _, (step_of_presented hready hheld hin).trans (runCommand_eq _ _), State.after_flight _ _, rfl, rfl, rfl⟩⟩

end Sys2Proof.Machine
end

section
/-! Proofs: every status is raised exactly as tabled (60_exceptions.md R160, R165). -/

namespace Sys2Proof.Machine

theorem transaction_of_ok {c : Command} {i : Instr} (g : Registers) (h : decode c.word c.data = .ok i) :
    transaction c g = effect i g := by
  simp [transaction, h]

theorem transaction_of_error {c : Command} {e : DecodeError} (g : Registers) (h : decode c.word c.data = .error e) :
    transaction c g = g.fail .illegalCommand := by
  simp [transaction, h, effectIllegal]

/-- The table of 60_exceptions.md R160, read by instruction: the status each ends in, by the registers it meets. -/
def tabledStatus (g : Registers) : Instr → Status
  | .venc v => if 2 ^ 63 ≤ v.toNat then .error .varintTooLarge else .ok
  | .vdecFin => if 9 < g.vdecCnt.toNat then .error .varintTooLong else .ok
  | .vrdByte b =>
    if g.vrdState = .active then
      if b.toNat < 0x80 then .ok else if g.vrdCnt.toNat = 8 then .error .varintTooLong else .more
    else .error .sequenceError
  | .vrdEof => if g.vrdState = .active then .error .truncated else .error .sequenceError
  | .vrdGet => if g.vrdState = .done then .ok else .error .sequenceError
  | .nop | .crc32Seed _ | .crc32Upd _ _ | .crc32Get | .crc64Seed _ | .crc64Upd _ _ | .crc64Get => .ok
  | .vdecClr | .vdecPush _ | .vrdStart | .statGet | .statClr => .ok

/-- A command that does one of two effects ends in the status of the one it does. -/
theorem ite_rsp_status {c : Prop} [Decidable c] {e f : Effect} :
    (if c then e else f).rsp.status = if c then e.rsp.status else f.rsp.status :=
  apply_ite (fun x : Effect => x.rsp.status) c e f

/-- A well-formed instruction ends in its tabled status. -/
theorem effect_status {i : Instr} (g : Registers) (h : i.WellFormed) : (effect i g).rsp.status = tabledStatus g i := by
  cases i with
  | nop | crc32Seed | crc32Get | crc64Seed | crc64Get | vdecClr | vdecPush | vrdStart | statGet | statClr => rfl
  | crc32Upd k d | crc64Upd k d =>
    have hk : k.toNat ≤ 8 := of_decide_eq_true h
    exact ite_rsp_status.trans (if_pos hk)
  | venc | vdecFin | vrdEof | vrdGet => exact ite_rsp_status
  | vrdByte b =>
    simp [effect, effectVrdByte, ite_rsp_status, continuation_eq_false_iff, tabledStatus]

/-! ### The table read by status: the instructions that raise it, and when -/

section
variable {g : Registers} {i : Instr}

theorem tabledStatus_ne_illegalCommand : tabledStatus g i ≠ .error .illegalCommand := by
  cases i <;> simp [tabledStatus, ite_eq_iff]

theorem tabledStatus_eq_sequenceError : tabledStatus g i = .error .sequenceError ↔
    ((∃ b, i = .vrdByte b) ∧ g.vrdState ≠ .active) ∨ (i = .vrdEof ∧ g.vrdState ≠ .active) ∨
      (i = .vrdGet ∧ g.vrdState ≠ .done) := by
  cases i <;> simp [tabledStatus, ite_eq_iff]

theorem tabledStatus_eq_varintTooLarge : tabledStatus g i = .error .varintTooLarge ↔
    ∃ v, i = .venc v ∧ 2 ^ 63 ≤ v.toNat := by
  cases i <;> simp [tabledStatus, ite_eq_iff]

theorem tabledStatus_eq_varintTooLong : tabledStatus g i = .error .varintTooLong ↔
    (i = .vdecFin ∧ 9 < g.vdecCnt.toNat) ∨
      ∃ b, i = .vrdByte b ∧ g.vrdState = .active ∧ g.vrdCnt.toNat = 8 ∧ 0x80 ≤ b.toNat := by
  cases i <;> simp [tabledStatus, ite_eq_iff, and_comm]

theorem tabledStatus_eq_truncated : tabledStatus g i = .error .truncated ↔ i = .vrdEof ∧ g.vrdState = .active := by
  cases i <;> simp [tabledStatus, ite_eq_iff]

theorem tabledStatus_eq_more : tabledStatus g i = .more ↔
    ∃ b, i = .vrdByte b ∧ g.vrdState = .active ∧ g.vrdCnt.toNat ≠ 8 ∧ 0x80 ≤ b.toNat := by
  cases i <;> simp [tabledStatus, ite_eq_iff, and_comm]

end

/-! ### The codes, and the whole -/

/-- Bit 3 of a status code marks the errors. -/
theorem Status.code_getLsbD_three_iff (st : Status) : st.code.getLsbD 3 = true ↔ ∃ e, st = .error e := by
  cases st with
  | ok | more => exact iff_of_false (by decide) nofun
  | error e => exact iff_of_true (by cases e <;> decide) ⟨e, rfl⟩

/-- Settles O47: an illegal word ends in IllegalCommand, and any other in the tabled status of its instruction. -/
theorem statusesAreRaisedExactlyAsTabled : Obligations.StatusesAreRaisedExactlyAsTabled := by
  refine ⟨rfl, Status.code_getLsbD_three_iff, fun c s => ⟨_, _, runCommand_eq c s, State.after_flight _ _, ?_⟩⟩
  cases hd : decode c.word c.data with
  | error e =>
    have hillegal : IllegalWord c.word := (illegalWord_iff c.word c.data).mp ⟨e, hd⟩
    simp [transaction_of_error _ hd, hillegal]
  | ok i =>
    obtain ⟨hwf, -, -⟩ := encodeOfDecodeRestoresTheWord _ _ _ hd
    have hlegal : ¬IllegalWord c.word := by simp [← illegalWord_iff c.word c.data, hd]
    rw [transaction_of_ok _ hd, effect_status _ hwf]
    simp only [Except.ok.injEq]
    exact ⟨iff_of_false tabledStatus_ne_illegalCommand hlegal, tabledStatus_eq_sequenceError,
      tabledStatus_eq_varintTooLarge, tabledStatus_eq_varintTooLong, tabledStatus_eq_truncated, tabledStatus_eq_more⟩

end Sys2Proof.Machine
end

section
/-! Proofs: what a failing command changes (60_exceptions.md R163). -/

namespace Sys2Proof.Machine

/-- Settles O49: the cases in which the status is raised give the branch of the command that raises it, and with it the
whole next state. -/
theorem failingCommandChangesOnlyTheListed : Obligations.FailingCommandChangesOnlyTheListed := by
  intro c s t r e ht hr he
  obtain ⟨-, -, htabled⟩ := statusesAreRaisedExactlyAsTabled
  obtain ⟨t', r', ht', hr', hillegal, hsequence, htooLarge, htooLong, htruncated, -⟩ := htabled c s
  cases ht.symm.trans ht'
  cases hr.symm.trans hr'
  have hran {i : Instr} {u : State} (hd : decode c.word c.data = .ok i) (hi : exec i s = .next u) : t = u :=
    Host.Outcome.next.inj (ht.symm.trans ((runCommand_of_ok s hd).trans hi))
  have hbare {u : State} (h : t = failed u e) : r = bare (.error e) := by
    rw [h, failed_flight] at hr
    exact (Option.some.inj hr).symm
  cases e with
  | illegalCommand =>
    obtain ⟨-, hfailed, -⟩ := illegalWordsAreExactlyTheListed
    have h := Host.Outcome.next.inj (ht.symm.trans (hfailed c s (hillegal.mp he)))
    exact ⟨hbare h, .inl ⟨h, .inl rfl⟩⟩
  | sequenceError =>
    have h : t = failed s .sequenceError := by
      rcases hsequence.mp he with ⟨⟨b, hd⟩, hstate⟩ | ⟨hd, hstate⟩ | ⟨hd, hstate⟩
      · exact hran hd (exec_of_fail (effectVrdByte_of_not_active b hstate))
      · exact hran hd (exec_of_fail (effectVrdEof_of_not_active hstate))
      · exact hran hd (exec_of_fail (if_neg hstate))
    exact ⟨hbare h, .inl ⟨h, .inr (.inl rfl)⟩⟩
  | varintTooLarge =>
    obtain ⟨v, hd, hv⟩ := htooLarge.mp he
    have h : t = failed s .varintTooLarge := hran hd (exec_of_fail (if_pos hv))
    exact ⟨hbare h, .inl ⟨h, .inr (.inr (.inl rfl))⟩⟩
  | varintTooLong =>
    rcases htooLong.mp he with ⟨hd, hcnt⟩ | ⟨b, hd, hactive, hcnt, hb⟩
    · have h := hran hd (exec_vdecFin_of_gt hcnt)
      exact ⟨hbare h, .inl ⟨h, .inr (.inr (.inr ⟨rfl, hd⟩))⟩⟩
    · have h := hran hd (exec_vrdByte_ninth hactive hcnt hb)
      exact ⟨hbare h, .inr (.inl ⟨rfl, b, hd, h⟩)⟩
  | truncated =>
    obtain ⟨hd, hactive⟩ := htruncated.mp he
    have h := hran hd (exec_vrdEof_of_active hactive)
    exact ⟨hbare h, .inr (.inr ⟨rfl, hd, h⟩)⟩

end Sys2Proof.Machine
end

section
/-! Proofs: `STICKY` keeps the first error (60_exceptions.md R162). -/

namespace Sys2Proof.Machine

/-- A nonzero `STICKY` is kept, whether the command fails or not. -/
theorem RecordsError.sticky_of_ne_zero {g : Registers} {f : Effect} (h : RecordsError g f) (hne : g.sticky ≠ 0) :
    f.regs.sticky = g.sticky := by
  rcases h with ⟨e, -, hupdate⟩ | ⟨-, hkept⟩
  · rw [hupdate, stickyUpdate, if_neg hne]
  · exact hkept

/-- Every command word but STAT.CLR records its error in `STICKY`, and does nothing else to it. -/
theorem transaction_recordsError {c : Command} (g : Registers) (h : decode c.word c.data ≠ .ok .statClr) :
    RecordsError g (transaction c g) := by
  rcases transaction_cases c g with ⟨i, hd, hi⟩ | hfail
  · rw [hi]
    exact effect_recordsError g fun hclr => h (hclr ▸ hd)
  · rw [hfail]
    exact .fail _ rfl

/-- Settles O48: every command but STAT.CLR records its error, and a step is a reset, a transaction or no write. -/
theorem stickyKeepsTheFirstError : Obligations.StickyKeepsTheFirstError := by
  refine ⟨fun c s t r ht hr => ?_, fun s t hstep hne hchanged => ?_⟩
  · rw [runCommand_eq] at ht
    cases ht
    cases hr
    refine ⟨fun e he => ?_, fun hst hclr => ?_⟩
    · by_cases hclr : decode c.word c.data = .ok .statClr
      · rw [transaction_of_ok _ hclr] at he
        cases he
      · rcases transaction_recordsError s.toRegisters hclr with ⟨e', he', hupdate⟩ | ⟨hnone, -⟩
        · cases he'.symm.trans he
          exact hupdate
        · exact absurd he (hnone e)
    · rcases transaction_recordsError s.toRegisters hclr with ⟨e, he, -⟩ | ⟨-, hkept⟩
      · simp [he] at hst
      · exact hkept
  · rcases step_toRegisters hstep with ⟨hrst, hregs⟩ | ⟨hacc, hregs⟩ | hregs
    · exact ⟨congrArg Registers.sticky hregs, .inl hrst⟩
    · by_cases hclr : decode s.drives.cmd.word s.drives.cmd.data = .ok .statClr
      · rw [transaction_of_ok _ hclr] at hregs
        exact ⟨congrArg Registers.sticky hregs, .inr ⟨hacc, hclr⟩⟩
      · exact absurd ((congrArg Registers.sticky hregs).trans
          ((transaction_recordsError _ hclr).sticky_of_ne_zero hne)) hchanged
    · exact absurd (congrArg Registers.sticky hregs) hchanged

end Sys2Proof.Machine
end

section
/-! Proofs: reset (70_reset_and_hazards.md R180, R181). -/

namespace Sys2Proof.Machine

/-- Settles O8: the registers are those of `Registers.reset`, and a starting block holds no response. -/
theorem resetStateIsAsListed : Obligations.ResetStateIsAsListed :=
  ⟨rfl, rfl, rfl, rfl, rfl, rfl, rfl, rfl, rfl, rfl, rfl⟩

/-- With `rst = 1` an edge resets, whatever else the host drives. -/
theorem step_of_reset {s : State} {p : PortIn} {rest : List PortIn} (hin : s.inputs = p :: rest) (hrst : p.rst = true) :
    step s = .next (s.resetEdge p) := by
  simp [step, drives_cons hin, hrst]

/-- Settles O9: the edge is the reset edge, and both handshakes need `rst = 0`. -/
theorem resetEdgeFromAnyState : Obligations.ResetEdgeFromAnyState := by
  intro s p rest hin hrst
  have hinputs : (s.resetEdge p).inputs = rest := by rw [State.resetEdge_inputs, hin, List.tail_cons]
  exact ⟨by simp [State.accepts, hrst], by simp [State.takes, hrst], rfl, s.resetEdge p, step_of_reset hin hrst,
    rfl, rfl, rfl, rfl, rfl, rfl, rfl, rfl, rfl, rfl, rfl, hinputs⟩

end Sys2Proof.Machine
end

section
/-! Proofs: a bounded wait ends (70_reset_and_hazards.md R183, R186). While neither handshake can happen an edge only
counts, so after at most the edges left to wait the block shows `cmd_ready` or `rsp_valid`. -/

namespace Sys2Proof.Machine

/-- The edges left until the tables are built, or until the response in flight is presented. -/
def State.edgesLeft (s : State) : Nat :=
  match s.channel with
  | .starting waited => Config.tableBuild s.draws - waited
  | .ready => 0
  | .inFlight waited _ => Config.latency s.draws - (waited + 1)

/-- With no edge left the block is ready or presents a response; with some left it does neither. -/
theorem State.edgesLeft_eq_zero_iff (s : State) : s.edgesLeft = 0 ↔ s.cmdReady = true ∨ s.rspValid = true := by
  cases h : s.channel <;> simp [State.edgesLeft, State.cmdReady, State.rspValid, h, Nat.sub_eq_zero_iff_le]

section
variable (s : State) (p : PortIn)

@[simp] theorem State.waitEdge_edgesLeft : (s.waitEdge p).edgesLeft = s.edgesLeft - 1 := by
  cases h : s.channel <;> simp [State.edgesLeft, Channel.wait, h] <;> omega

@[simp] theorem State.waitEdge_flight : (s.waitEdge p).flight = s.flight := by
  cases h : s.channel <;> simp [State.flight, Channel.wait, h]

end

/-- Only a response in flight is presented. -/
theorem rspValid_of_flight_none {s : State} (h : s.flight = none) : s.rspValid = false := by
  refine Bool.eq_false_iff.mpr fun hvalid => ?_
  obtain ⟨w, r, hchannel, -⟩ := (rspValid_iff s).mp hvalid
  rw [(flight_iff s r).mpr ⟨w, hchannel⟩] at h
  cases h

/-- A step without reset and with edges left to wait is a wait. -/
theorem step_waits {s t : State} (hrst : s.drives.rst = false) (hleft : s.edgesLeft ≠ 0) (hstep : step s = .next t) :
    t = s.waitEdge s.drives := by
  rw [Ne, s.edgesLeft_eq_zero_iff, not_or] at hleft
  obtain ⟨hready, hvalid⟩ := hleft
  rcases step_cases s with ⟨hreset, -⟩ | ⟨-, -, hs⟩ | ⟨-, -, hacc, -⟩ | ⟨-, -, -, htake, -⟩ | ⟨-, -, -, -, hs⟩
  · rw [hrst] at hreset
    cases hreset
  · cases hs.symm.trans hstep
  · exact absurd ((accepts_iff s s.drives).mp hacc).2.1 hready
  · exact absurd ((takes_iff s s.drives).mp htake).2.1 hvalid
  · cases hs.symm.trans hstep
    rfl

/-- A run of one step more that completes is a step that completes, and a run from there. -/
theorem step_of_steps_succ {n : Nat} {s u : State} (h : steps (n + 1) s = .next u) :
    ∃ v, step s = .next v ∧ steps n v = .next u := by
  cases hstep : step s with
  | next v => exact ⟨v, rfl, (steps_succ_next hstep).symm.trans h⟩
  | fault f => simp [steps, hstep] at h
  | refused f => simp [steps, hstep] at h

/-- A run without reset that is as long as the wait comes to its end, with the same response in flight, if any. -/
theorem steps_to_end_of_wait {n : Nat} {s u : State} (hleft : s.edgesLeft ≤ n)
    (hrst : ∀ p ∈ s.inputs.take n, p.rst = false) (hrun : steps n s = .next u) :
    ∃ m, m ≤ n ∧ ∃ t : State, steps m s = .next t ∧ t.flight = s.flight ∧ (t.cmdReady = true ∨ t.rspValid = true) := by
  induction n generalizing s with
  | zero => exact ⟨0, le_rfl, s, rfl, rfl, s.edgesLeft_eq_zero_iff.mp (Nat.le_zero.mp hleft)⟩
  | succ n ih =>
    by_cases hnow : s.edgesLeft = 0
    · exact ⟨0, Nat.zero_le _, s, rfl, rfl, s.edgesLeft_eq_zero_iff.mp hnow⟩
    · obtain ⟨v, hstep, hlater⟩ := step_of_steps_succ hrun
      have hfirst : s.drives.rst = false :=
        drives_rst_false fun p hp => hrst p (List.take_subset_take_left _ (Nat.le_add_left 1 n) hp)
      cases step_waits hfirst hnow hstep
      have hrest : ∀ p ∈ (s.waitEdge s.drives).inputs.take n, p.rst = false := fun p hp =>
        hrst p (List.mem_of_mem_tail (by rwa [List.tail_take_eq_take_tail]))
      have hfewer : (s.waitEdge s.drives).edgesLeft ≤ n := by
        rw [State.waitEdge_edgesLeft]
        omega
      obtain ⟨m, hm, t, ht, hflight, hend⟩ := ih hfewer hrest hlater
      exact ⟨m + 1, Nat.succ_le_succ hm, t, (steps_succ_next hstep).trans ht, hflight.trans (s.waitEdge_flight _), hend⟩

/-- Settles O14: at the end of the wait the response is still in flight, so it is presented. -/
theorem commandIsAnsweredWithinItsLatency : Obligations.CommandIsAnsweredWithinItsLatency := by
  intro n waited s u r hchannel hlatency hrst hrun
  have hleft : s.edgesLeft ≤ n := by
    rw [State.edgesLeft, hchannel]
    exact Nat.sub_le_of_le_add (Nat.add_comm n _ ▸ hlatency)
  obtain ⟨m, hm, t, ht, hflight, hend⟩ := steps_to_end_of_wait hleft hrst hrun
  have hsame : t.flight = some r := hflight.trans ((flight_iff s r).mpr ⟨waited, hchannel⟩)
  obtain ⟨w, hstill⟩ := (flight_iff t r).mp hsame
  refine ⟨m, hm, t, ht, hsame, hend.resolve_left ?_⟩
  simp [cmdReady_of_inFlight hstill]

/-- Settles O15: at the end of the wait after the reset edge nothing is in flight, so the block is ready. -/
theorem blockBecomesReadyAfterReset : Obligations.BlockBecomesReadyAfterReset := by
  intro n s u p rest hin hp hbuild hrst hrun
  have hreset := step_of_reset hin hp
  rw [steps_succ_next hreset] at hrun
  have hinputs : (s.resetEdge p).inputs = rest := by rw [State.resetEdge_inputs, hin, List.tail_cons]
  obtain ⟨m, hm, t, ht, hflight, hend⟩ := steps_to_end_of_wait hbuild (hinputs ▸ hrst) hrun
  refine ⟨m, hm, t, (steps_succ_next hreset).trans ht, hend.resolve_right ?_⟩
  simp [rspValid_of_flight_none hflight]

end Sys2Proof.Machine
end

section
/-! Proofs: the observable result of a clocked run (70_reset_and_hazards.md R187). -/

namespace Sys2Proof.Machine

/-- Settles O59: the clocked run is the run of atomic commands, which gives what the transactions give. -/
theorem clockedRunGivesTheTransactionResult : Obligations.ClockedRunGivesTheTransactionResult := by
  intro cmds s rest hready hheld hin hwaits
  obtain ⟨t, ht, hresult⟩ := transact_eq_runTransactions (cmds.map fun p => p.1) { s with inputs := rest }
  exact ⟨t, (steps_driveAll cmds hready hheld hin hwaits).trans ht, hresult⟩

end Sys2Proof.Machine
end
